-- ==== Sys2Proof/Word.lean ====
section
/-! DEFINITION. The bit-vector types the spec names (00_scope R9: every value is unsigned, bit 0 is the least significant). -/

namespace Sys2Proof

/-- One 8-bit value: an event word (30_encoding R61), a frame slot (20_memory R41), the byte accumulator (10_state R16). -/
abbrev Byte := BitVec 8

/-- A button identifier field, 3 bits (10_state R13 S9, 30_encoding R63). -/
abbrev CmdId := BitVec 3

end Sys2Proof
end

