-- ==== Sys2Proof/Config.lean ====
section
/-! DEFINITION. The block's fixed parameters (00_scope R7), its open parameters (00_scope R8), and the free values an open
parameter draws on. -/

namespace Sys2Proof

/-! ### Fixed parameters (00_scope R7) -/

/-- BYTE_BITS: bits per assembled byte. -/
abbrev Config.byteBits : Nat := 8
/-- FRAME_LEN: bytes per frame, and so the number of slots of the frame buffer. -/
abbrev Config.frameLen : Nat := 9
/-- PRESS_THRESHOLD: a press is released when its tick counter exceeds this. -/
abbrev Config.pressThreshold : Nat := 10
/-- CMD_MIN: the least valid command identifier. -/
abbrev Config.cmdMin : Nat := 1
/-- CMD_MAX: the greatest valid command identifier. -/
abbrev Config.cmdMax : Nat := 6
/-- CMD_POWER. -/
abbrev Config.cmdPower : CmdId := 1
/-- CMD_HOT_WATER. -/
abbrev Config.cmdHotWater : CmdId := 3
/-- CMD_ONE_CUP. -/
abbrev Config.cmdOneCup : CmdId := 4
/-- CMD_TWO_CUPS. -/
abbrev Config.cmdTwoCups : CmdId := 5

/-! ### Open parameters (00_scope R8)

They are plain data held beside the block's state (`State.params`), so that a claim over all states quantifies over every
value of each of them, as R8 asks (DESIGN CHOICE, log 4; safe). -/

/-- P_PARTIAL_STORE (00_scope R8, 40_frame_assembler R87): whether a strobe that finalizes a short byte writes its bits. -/
inductive PartialStore where
  /-- the slot keeps its value -/
  | keep
  /-- the received bits are written to the slot -/
  | store
  /-- either of the two, a free choice at each such strobe -/
  | either
deriving DecidableEq, Repr

/-- Whether the informative records LOG_QUEUED and LOG_REJECTED are emitted (60_exceptions R152: a model may emit or omit
them; 93 I4). The spec has no parameter for it: DESIGN CHOICE, log 7. -/
inductive InfoLog where
  /-- every informative record is emitted -/
  | emit
  /-- none is -/
  | omit
  /-- each may be emitted or not, a free choice at each request -/
  | either
deriving DecidableEq, Repr

/-- The open parameters of one block; no step changes them. -/
structure Params where
  /-- P_PARTIAL_STORE -/
  partialStore : PartialStore
  /-- P_EDGE_LOSS (60_exceptions R141): whether an edge delivered while armed may be lost -/
  edgeLoss : Bool
  /-- the model's own: whether informative records are emitted -/
  infoLog : InfoLog
deriving DecidableEq, Repr

/-! ### Free values

Each is a constant without a body: nothing can be proved about its values, so a claim holds whatever they are. The argument
is the count of values drawn before (`State.draws`). -/

/-- The choice `draw c in (keep, store)` of 40_frame_assembler R87 under P_PARTIAL_STORE = either: true is store (log 5; safe). -/
opaque Config.storesPartial : Nat → Bool

/-- The choice of 60_exceptions R141 under P_EDGE_LOSS = true: true is the outcome "no state change" (log 6; safe). -/
opaque Config.losesEdge : Nat → Bool

/-- Whether an informative record is emitted, under `InfoLog.either` (93 I4 "any value"; log 7; safe). -/
opaque Config.recordsInfo : Nat → Bool

end Sys2Proof
end

