-- ==== Sys2Proof/Machine/Operands.lean ====
section
/-! DEFINITION. Every operand form of the event word (30_encoding R61, R63) and the bit insertion a DATA sample goes through
(40_frame_assembler R82). -/

namespace Sys2Proof.Machine

/-- `opc = w[7:4]` (30_encoding R61). -/
def opcField (w : Byte) : BitVec 4 := w.extractLsb' 4 4

/-- `opd = w[3:0]` (30_encoding R61). -/
def opdField (w : Byte) : BitVec 4 := w.extractLsb' 0 4

/-- `w[0]`: the operand `d` of CLK, `b` of EN and REQ_POWER (30_encoding R63). -/
def bitOperand (w : Byte) : BitVec 1 := w.extractLsb' 0 1

/-- `w[3:1]`: reserved where the operand is one bit (30_encoding R63). -/
def aboveBitOperand (w : Byte) : BitVec 3 := w.extractLsb' 1 3

/-- `w[2:0]`: the operand `id` of REQ (30_encoding R63). -/
def idOperand (w : Byte) : CmdId := w.extractLsb' 0 3

/-- `w[3]`: reserved in a REQ word (30_encoding R63). -/
def aboveIdOperand (w : Byte) : BitVec 1 := w.extractLsb' 3 1

/-- A one-bit operand read as a boolean: 1 = true (30_encoding R63). -/
def bitToBool (b : BitVec 1) : Bool := b == 1#1

/-- A boolean written as a one-bit operand. -/
def boolToBit (b : Bool) : BitVec 1 := if b then 1#1 else 0#1

/-- The identifiers a REQ word may carry: 1 to 6 (00_scope R7, 30_encoding R63, R66). -/
def legalId (id : CmdId) : Bool := decide (Config.cmdMin ≤ id.toNat ∧ id.toNat ≤ Config.cmdMax)

/-- `acc | (zext_8(d) << bitc)` (40_frame_assembler R82; `|`, `<<` and `zext` as 00_scope R9 defines them). -/
def insertBit (acc : Byte) (bitc : BitVec 3) (d : BitVec 1) : Byte := acc ||| (d.setWidth 8 <<< bitc.toNat)

end Sys2Proof.Machine
end

