-- ==== Sys2Proof/Syntax.lean ====
section
/-! DEFINITION. The block's instructions: its input events, one constructor per row of the opcode table (30_encoding R62). -/

namespace Sys2Proof

/-- One input event of the block (30_encoding R62, operands R63). -/
inductive Instr where
  /-- `CLK d`: a rising edge of the clock line with DATA sample `d`, 1 = high (40_frame_assembler R81). -/
  | clk (d : BitVec 1)
  /-- `STB`: a rising edge of the strobe line (40_frame_assembler R84). -/
  | stb
  /-- `POLL`: one external polling tick (41_frame_consumer R96). -/
  | poll
  /-- `EN b`: `set_enabled(b)` (43_enabled_gate R121). -/
  | en (b : Bool)
  /-- `REQ id`: `request(buttonId)`, `id` from 1 to 6 (42_button_sequencer R106). -/
  | req (id : CmdId)
  /-- `REQ_POWER b`: `request_power(b)` (43_enabled_gate R125). -/
  | reqPower (b : Bool)
  /-- `REQ_ONE_CUP` (43_enabled_gate R126). -/
  | reqOneCup
  /-- `REQ_TWO_CUPS` (43_enabled_gate R127). -/
  | reqTwoCups
  /-- `REQ_HOT_WATER` (43_enabled_gate R128). -/
  | reqHotWater
deriving DecidableEq, Repr

end Sys2Proof
end

