-- ==== Sys2Proof/WellFormed.lean ====
section
/-! DEFINITION. Which instructions an event word can spell (30_encoding R63: the legal values of each operand). -/

namespace Sys2Proof

/-- Every operand holds a legal value of 30_encoding R63. The types already bound `d` and `b`; only `id` has a narrower range. -/
def Instr.wf : Instr → Bool
  | .clk _ => true
  | .stb => true
  | .poll => true
  | .en _ => true
  | .req id => Machine.legalId id
  | .reqPower _ => true
  | .reqOneCup => true
  | .reqTwoCups => true
  | .reqHotWater => true

end Sys2Proof
end

