-- ==== Sys2Proof/Decode.lean ====
section
/-! DEFINITION. The decoder of the event word, total on all 256 bytes and rejecting by name (30_encoding R61 to R68), and the
encoder written from the same tables. -/

namespace Sys2Proof

/-- Why a word spells no operation. It carries the refused word, "the only information" there is (60_exceptions R137). -/
inductive DecodeError where
  /-- opcode 0x0 or 0xA to 0xF (30_encoding R64) -/
  | reservedOpcode (w : Byte)
  /-- a 1 in a reserved operand bit (30_encoding R65) -/
  | reservedOperandBit (w : Byte)
  /-- `REQ` with identifier 0 or 7 (30_encoding R66) -/
  | reservedId (w : Byte)
deriving DecidableEq, Repr

/-- A word whose operand is the single bit `w[0]`, with `w[3:1]` reserved (30_encoding R63). -/
def decodeBit (w : Byte) (f : BitVec 1 → Instr) : Except DecodeError Instr :=
  if Machine.aboveBitOperand w = 0 then .ok (f (Machine.bitOperand w)) else .error (.reservedOperandBit w)

/-- A word without an operand, with `w[3:0]` reserved (30_encoding R63). -/
def decodeNone (w : Byte) (i : Instr) : Except DecodeError Instr :=
  if Machine.opdField w = 0 then .ok i else .error (.reservedOperandBit w)

/-- A `REQ` word: `w[3]` reserved (R65), then the identifier's range (R66). -/
def decodeReq (w : Byte) : Except DecodeError Instr :=
  if Machine.aboveIdOperand w = 0 then
    if Machine.legalId (Machine.idOperand w) then .ok (.req (Machine.idOperand w)) else .error (.reservedId w)
  else .error (.reservedOperandBit w)

/-- `decode : UInt8 -> Event ⊕ Refused` (30_encoding R68), by the opcode map of R62. -/
def decode (w : Byte) : Except DecodeError Instr :=
  match (Machine.opcField w).toNat with
  | 0x1 => decodeBit w .clk
  | 0x2 => decodeNone w .stb
  | 0x3 => decodeNone w .poll
  | 0x4 => decodeBit w fun b => .en (Machine.bitToBool b)
  | 0x5 => decodeReq w
  | 0x6 => decodeBit w fun b => .reqPower (Machine.bitToBool b)
  | 0x7 => decodeNone w .reqOneCup
  | 0x8 => decodeNone w .reqTwoCups
  | 0x9 => decodeNone w .reqHotWater
  | _ => .error (.reservedOpcode w)

/-- The opcode of each operation (30_encoding R62). -/
def opcode : Instr → BitVec 4
  | .clk _ => 0x1
  | .stb => 0x2
  | .poll => 0x3
  | .en _ => 0x4
  | .req _ => 0x5
  | .reqPower _ => 0x6
  | .reqOneCup => 0x7
  | .reqTwoCups => 0x8
  | .reqHotWater => 0x9

/-- The operand nibble of each operation, its reserved bits 0 (30_encoding R63). -/
def operand : Instr → BitVec 4
  | .clk d => 0#3 ++ d
  | .stb => 0
  | .poll => 0
  | .en b => 0#3 ++ Machine.boolToBit b
  | .req id => 0#1 ++ id
  | .reqPower b => 0#3 ++ Machine.boolToBit b
  | .reqOneCup => 0
  | .reqTwoCups => 0
  | .reqHotWater => 0

/-- The one word of an operation (30_encoding R61: `opc` above `opd`). -/
def encode (i : Instr) : Byte := opcode i ++ operand i

/-- The byte an opcode-table word of `nbits` bits stands for, every bit above them 0. Each row has exactly 8 bits. -/
def tableByte (nbits w : Nat) : Byte := BitVec.ofNat 8 (w % 2 ^ nbits)

/-- What `decode` reads from a word numbered as the opcode table numbers it. -/
def decodeTableWord (nbits w : Nat) : Option Instr :=
  match decode (tableByte nbits w) with
  | .ok i => some i
  | .error _ => none

end Sys2Proof
end

