-- ==== Sys2Proof/Machine/State.lean ====
section
/-! DEFINITION. The machine's state: the elements S0 to S14 of 10_state R13, and the model's own three fields. -/

namespace Sys2Proof.Machine

/-- The frame buffer's contents: (slot, byte) pairs, slots strictly rising, no byte 0x00 listed. A slot that is not listed
holds 0x00, its value at reset (10_state R18, 70_reset R166). -/
abbrev Memory := List Host.Cell

/-- One frame: nine bytes in slot order (20_memory R45). -/
abbrev Frame := Vector Byte 9

/-- An output record (10_state R37). -/
inductive Record where
  /-- `FRAME(b0, ..., b8)`, on the FRAME_OUT port: normative (41_frame_consumer R99) -/
  | frame (bytes : Frame)
  /-- `LOG_FRAME(b0, ..., b8)`: normative (41_frame_consumer R100) -/
  | logFrame (bytes : Frame)
  /-- `LOG_QUEUED(id)`: informative (42_button_sequencer R106) -/
  | logQueued (id : CmdId)
  /-- `LOG_REJECTED(id)`: informative (42_button_sequencer R106) -/
  | logRejected (id : CmdId)
deriving DecidableEq, Repr

/-- The two interrupt sources (60_exceptions R139). -/
inductive Line where
  /-- the clock line -/
  | clk
  /-- the strobe line -/
  | stb
deriving DecidableEq, Repr

/-- Why the machine stops with a fault. -/
inductive Fault where
  /-- An access to frame slot `slot` where the buffer has only slots 0 to 8 (20_memory R41, R49). Raised by `memRead` and
  `memWriteIf` in Machine/Ops.lean. Safe: the machine stops. No event reaches it (00_scope R11), which is an obligation. -/
  | noSuchSlot (slot : Nat)
deriving DecidableEq, Repr

/-- Why an instruction has no meaning. (A word that spells no operation is NOT one of these: it sets `State.refused` and the
run goes on, 60_exceptions R137.) -/
inductive Refusal where
  /-- The instruction has no meaning yet. Raised only by a rejected arm of `exec`, and there is none. Safe. -/
  | notModelled (mnemonic : String)
deriving DecidableEq, Repr

/-- The block's state (10_state R13, element ids in brackets), then the model's own fields. -/
structure State where
  /-- [S0] whether the block is enabled (R14) -/
  enabled : Bool
  /-- [S1] whether the clock interrupt is attached (R15) -/
  clkArmed : Bool
  /-- [S2] whether the strobe interrupt is attached (R15) -/
  stbArmed : Bool
  /-- [S3] the byte being assembled (R16) -/
  acc : BitVec 8
  /-- [S4] the bit-count cursor (R17) -/
  bitc : BitVec 3
  /-- [S5] the frame buffer (R18) -/
  frame : Memory
  /-- [S6] the byte-count cursor, 0 to 9 (R19) -/
  bytec : BitVec 4
  /-- [S7] the completeness flag (R20) -/
  complete : Bool
  /-- [S8] the deferred-log flag (R21) -/
  logp : Bool
  /-- [S9] the pending command identifier, 0 for none (R22) -/
  pending : CmdId
  /-- [S10] the button active flag: IDLE or ACTIVE (R23) -/
  active : Bool
  /-- [S11] the strobe-tick counter, 0 to 11 (R24) -/
  ticks : BitVec 4
  /-- [S12] the drive of the open-drain button line: true pulls it low (R25) -/
  btnDrive : Bool
  /-- [S13] the sticky mark of a refused word (R26) -/
  refused : Bool
  /-- [S14] the output trace, oldest record first (R37) -/
  out : List Record
  /-- the model's own: the values of the open parameters (00_scope R8), fixed for a run (log 4) -/
  params : Params
  /-- the model's own: how many free values have been drawn (log 5) -/
  draws : Nat
  /-- the model's own: the event words presented and not yet applied, oldest first (30_encoding R61, log 1) -/
  events : List Byte
deriving DecidableEq, Repr

/-- Reset (70_reset R166): every element zeroed, the block disabled, both sources detached, BTN released, no output. The
parameters take the defaults of 00_scope R8 (log 4; `infoLog` log 7), and no event has been presented yet (R167, log 1). -/
def State.reset : State where
  enabled := false
  clkArmed := false
  stbArmed := false
  acc := 0
  bitc := 0
  frame := []
  bytec := 0
  complete := false
  logp := false
  pending := 0
  active := false
  ticks := 0
  btnDrive := false
  refused := false
  out := []
  params := { partialStore := .either, edgeLoss := false, infoLog := .emit }
  draws := 0
  events := []

end Sys2Proof.Machine
end

