-- ==== Sys2Proof/Machine/Ops.lean ====
section
/-! DEFINITION. The named operations of the spec's pseudocode (00_scope R10) over the state: the frame buffer, attach and
detach, emit, the draws, refusal, the input queue, and the one way an edge enters its handler. -/

namespace Sys2Proof.Machine

/-- What an event answers. -/
abbrev Result := Host.Outcome State Fault Refusal

/-- One statement after another (00_scope R10, sequential semantics); a stop ends the event. -/
def andThen (r : Result) (k : State → Result) : Result :=
  match r with
  | .next s => k s
  | .fault f => .fault f
  | .refused q => .refused q

/-! ### The frame buffer (20_memory R41) -/

/-- The byte a slot holds; a slot not listed holds 0x00. -/
def memGet : Memory → Nat → Byte
  | [], _ => 0
  | (b, v) :: m, a => if b = a then v else memGet m a

/-- The contents without any entry for slot `a`. -/
def memErase : Memory → Nat → Memory
  | [], _ => []
  | (b, v) :: m, a => if b = a then memErase m a else (b, v) :: memErase m a

/-- The contents with an entry put in before the first higher slot. -/
def memInsert : Memory → Nat → Byte → Memory
  | [], a, v => [(a, v)]
  | (b, w) :: m, a, v => if a < b then (a, v) :: (b, w) :: m else (b, w) :: memInsert m a v

/-- The contents with slot `a` set to `v`, in canonical form: 0x00 is not listed. -/
def memSet (m : Memory) (a : Nat) (v : Byte) : Memory :=
  if v = 0 then memErase m a else memInsert (memErase m a) a v

/-- Canonical from slot `lo` on: slots rising, each below FRAME_LEN, no byte 0x00. -/
def Memory.wfFrom : Nat → Memory → Bool
  | _, [] => true
  | lo, (a, v) :: m => decide (lo ≤ a) && decide (a < Config.frameLen) && decide (v ≠ 0) && Memory.wfFrom (a + 1) m

/-- The canonical form of the frame buffer's contents. -/
def Memory.wf (m : Memory) : Bool := Memory.wfFrom 0 m

/-- `MemRead(i, 1)` (20_memory R41). -/
def memRead (i : Nat) (s : State) : Except Fault Byte :=
  if i < Config.frameLen then .ok (memGet s.frame i) else .error (.noSuchSlot i)

/-- `MemWrite(i, 1, v)` where `c` holds, and no effect where it does not (20_memory R41; the choice of 40_frame_assembler R87). -/
def memWriteIf (c : Bool) (i : Nat) (v : Byte) (s : State) : Result :=
  if i < Config.frameLen then .next { s with frame := if c then memSet s.frame i v else s.frame }
  else .fault (.noSuchSlot i)

/-- `MemWrite(i, 1, v)` (20_memory R41). -/
def memWrite (i : Nat) (v : Byte) (s : State) : Result := memWriteIf true i v s

/-- `MemWrite(i, 1, v)` for each slot of a list, in order. -/
def memFill (v : Byte) : List Nat → State → Result
  | [], s => .next s
  | i :: is, s => andThen (memWrite i v s) (memFill v is)

/-- `for i in 0..8: MemWrite(i, 1, 0x00)` (41_frame_consumer R96, 43_enabled_gate R123). -/
def zeroFrame (s : State) : Result := memFill 0 [0, 1, 2, 3, 4, 5, 6, 7, 8] s

/-- `MemRead(0,1), ..., MemRead(8,1)` (41_frame_consumer R96). -/
def readFrame (s : State) : Except Fault Frame := do
  let b0 ← memRead 0 s
  let b1 ← memRead 1 s
  let b2 ← memRead 2 s
  let b3 ← memRead 3 s
  let b4 ← memRead 4 s
  let b5 ← memRead 5 s
  let b6 ← memRead 6 s
  let b7 ← memRead 7 s
  let b8 ← memRead 8 s
  return #v[b0, b1, b2, b3, b4, b5, b6, b7, b8]

/-- What follows a read of all nine slots. -/
def withFrame (s : State) (k : Frame → Result) : Result :=
  match readFrame s with
  | .ok bytes => k bytes
  | .error f => .fault f

/-! ### Registers -/

/-- `attach(L)` (00_scope R10): sets the armed bit; idempotent. -/
def attach (l : Line) (s : State) : State :=
  match l with
  | .clk => { s with clkArmed := true }
  | .stb => { s with stbArmed := true }

/-- `detach(L)` (00_scope R10): clears the armed bit; idempotent. -/
def detach (l : Line) (s : State) : State :=
  match l with
  | .clk => { s with clkArmed := false }
  | .stb => { s with stbArmed := false }

/-- Reset of the bit accumulator: `S.acc <- 0x00`, `S.bitc <- 0` (40_frame_assembler R83, R86). -/
def resetBits (s : State) : State := { s with acc := 0, bitc := 0 }

/-- `emit P(v)` (00_scope R10). -/
def emit (r : Record) (s : State) : State := { s with out := s.out ++ [r] }

/-- One free value has been drawn (log 5). -/
def nextDraw (s : State) : State := { s with draws := s.draws + 1 }

/-- `emit` of an informative record, which may be left out (60_exceptions R152, 93 I4; log 7). -/
def emitInfo (r : Record) (s : State) : State :=
  match s.params.infoLog with
  | .emit => emit r s
  | .omit => s
  | .either => nextDraw { s with out := if Config.recordsInfo s.draws then s.out ++ [r] else s.out }

/-- `raise Refused(info)` (00_scope R10, 60_exceptions R137): sets the sticky mark and nothing else. -/
def markRefused (s : State) : State := { s with refused := true }

/-! ### Taking an interrupt (60_exceptions R139 to R147)

The block has no exception in the processor sense (R136): nothing is saved or restored, and there is no vector (R146). What it
has in that place is the delivery of an edge to its handler. -/

/-- The handler's entry guard: return at once if the block is disabled (60_exceptions R142). -/
def guarded (handler : State → Result) (s : State) : Result :=
  if s.enabled then handler s else .next s

/-- An edge on a line whose armed bit is `armed`: lost if the source is detached (60_exceptions R140); possibly lost, under
P_EDGE_LOSS, if it is attached (R141, log 6); otherwise the handler runs, behind its entry guard (R142), to completion (R146). -/
def deliver (armed : Bool) (handler : State → Result) (s : State) : Result :=
  if armed then
    if s.params.edgeLoss then
      if Config.losesEdge s.draws then .next (nextDraw s) else guarded handler (nextDraw s)
    else guarded handler s
  else .next s

/-! ### The input queue (30_encoding R61; log 1) -/

/-- The next event word presented, and the state with it taken from the queue. -/
def fetch (s : State) : Option (Byte × State) :=
  match s.events with
  | [] => none
  | w :: ws => some (w, { s with events := ws })

/-- The state with one more event word, presented before those that already wait. -/
def present (w : Byte) (s : State) : State := { s with events := w :: s.events }

end Sys2Proof.Machine
end

