-- ==== Sys2Proof/Machine/Flags.lean ====
section
/-! DEFINITION. The flags of 10_state R20 to R23 and how each is set and cleared. -/

namespace Sys2Proof.Machine

/-- Completion raises the completeness flag and the deferred-log flag together (40_frame_assembler R88). -/
def raiseComplete (s : State) : State := { s with complete := true, logp := true }

/-- The consumer's acknowledgement: `S.complete <- 0` (41_frame_consumer R100). -/
def ackComplete (s : State) : State := { s with complete := false }

/-- `S.logp <- 0` (41_frame_consumer R100). -/
def clearLog (s : State) : State := { s with logp := false }

/-- IDLE to ACTIVE: the active flag set, the tick counter 0, the line driven (42_button_sequencer R109). -/
def startPress (s : State) : State := { s with active := true, ticks := 0, btnDrive := true }

/-- ACTIVE to IDLE: the active flag and the pending command cleared, the line released; `ticks` stays (42_button_sequencer R110). -/
def endPress (s : State) : State := { s with active := false, pending := 0, btnDrive := false }

/-- One more strobe tick of a press (42_button_sequencer R110; 4 bits, 10_state R13, log 10). -/
def countTick (s : State) : State := { s with ticks := s.ticks + 1 }

end Sys2Proof.Machine
end

