-- ==== Sys2Proof/Machine/EnabledGate.lean ====
section
/-! DEFINITION. The EnabledGate (43_enabled_gate): `set_enabled`. -/

namespace Sys2Proof.Machine

/-- `EnableGate()` (43_enabled_gate R122). -/
def enableGate (s : State) : State :=
  if s.enabled then s else attach .stb (attach .clk { s with btnDrive := false, enabled := true })

/-- `DisableGate()` (43_enabled_gate R123). -/
def disableGate (s : State) : Result :=
  if s.enabled then
    zeroFrame (resetBits { detach .stb (detach .clk { s with enabled := false }) with
      btnDrive := false, pending := 0, active := false, ticks := 0, complete := false, logp := false, bytec := 0 })
  else .next s

/-- `EN b` (43_enabled_gate R121). -/
def execEn (b : Bool) (s : State) : Result := if b then .next (enableGate s) else disableGate s

end Sys2Proof.Machine
end

