-- ==== Sys2Proof/Machine/ButtonSequencer.lean ====
section
/-! DEFINITION. The ButtonSequencer (42_button_sequencer): the strobe tick, and the requests, generic and named. -/

namespace Sys2Proof.Machine

/-- `ButtonTick()` (42_button_sequencer R108, R109, R110). -/
def buttonTick (s : State) : State :=
  if s.active then
    if Config.pressThreshold < (countTick s).ticks.toNat then endPress (countTick s) else countTick s
  else if s.pending = 0 then s
  else startPress s

/-- `Request(id)` (42_button_sequencer R106, R107): rejected while disabled, else `id` replaces whatever was pending. -/
def request (id : CmdId) (s : State) : State :=
  if s.enabled then emitInfo (.logQueued id) { s with pending := id }
  else emitInfo (.logRejected id) s

/-- `REQ id` (42_button_sequencer R106). Identifiers 0 and 7 spell no operation (30_encoding R66); `decode` gives no such
instruction, and one run all the same is refused as its word would be (log 9). -/
def execReq (id : CmdId) (s : State) : Result :=
  .next (if legalId id then request id s else markRefused s)

/-- `REQ_POWER b`: `Request(1)`, for both values of `b` (43_enabled_gate R125, D13). -/
def execReqPower (_b : Bool) (s : State) : Result := .next (request Config.cmdPower s)

/-- `REQ_ONE_CUP`: `Request(4)` (43_enabled_gate R126). -/
def execReqOneCup (s : State) : Result := .next (request Config.cmdOneCup s)

/-- `REQ_TWO_CUPS`: `Request(5)` (43_enabled_gate R127). -/
def execReqTwoCups (s : State) : Result := .next (request Config.cmdTwoCups s)

/-- `REQ_HOT_WATER`: `Request(3)` (43_enabled_gate R128). -/
def execReqHotWater (s : State) : Result := .next (request Config.cmdHotWater s)

end Sys2Proof.Machine
end

