-- ==== Sys2Proof/Machine/FrameAssembler.lean ====
section
/-! DEFINITION. The BitAssembler and the FrameAssembler (40_frame_assembler): the clock edge and the strobe edge. -/

namespace Sys2Proof.Machine

/-- "If the frame byte cursor is below 9, append the byte and advance the cursor; otherwise silently drop the overflow"
(40_frame_assembler R83). -/
def appendByte (s : State) : Result :=
  if s.bytec.toNat < Config.frameLen then
    andThen (memWrite s.bytec.toNat s.acc s) fun t => .next { t with bytec := t.bytec + 1 }
  else .next s

/-- The rest of a clock event once the bit is in: `n` is the bit count with this bit (40_frame_assembler R81, R83). -/
def countBit (n : Nat) (s : State) : Result :=
  if n = Config.byteBits then andThen (appendByte s) fun t => .next (resetBits t)
  else .next { s with bitc := BitVec.ofNat 3 n }

/-- `on_clock_edge()` with DATA sample `d` (40_frame_assembler R81, R82, R83). -/
def clockHandler (d : BitVec 1) (s : State) : Result :=
  countBit (s.bitc.toNat + 1) { s with acc := insertBit s.acc s.bitc d }

/-- `CLK d` (40_frame_assembler R81). -/
def execClk (d : BitVec 1) (s : State) : Result := deliver s.clkArmed (clockHandler d) s

/-- `PartialStore()` (40_frame_assembler R87; the draw under `either` is log 5). -/
def partialStore (s : State) : Result :=
  match s.params.partialStore with
  | .keep => .next s
  | .store => memWrite s.bytec.toNat s.acc s
  | .either => memWriteIf (Config.storesPartial s.draws) s.bytec.toNat s.acc (nextDraw s)

/-- Finalization of a pending partial byte of a frame that is not full (40_frame_assembler R86). -/
def finalizePartial (s : State) : Result :=
  if 0 < s.bitc.toNat ∧ s.bytec.toNat < Config.frameLen then
    andThen (partialStore s) fun t => .next (resetBits { t with bytec := t.bytec + 1 })
  else .next s

/-- Completion of a full frame (40_frame_assembler R88). -/
def completeFrame (s : State) : State :=
  if s.bytec.toNat = Config.frameLen then detach .stb (detach .clk { raiseComplete s with bytec := 0 }) else s

/-- `FramingStrobe()` (40_frame_assembler R85): the second test reads the cursor the first part left. -/
def framingStrobe (s : State) : Result := andThen (finalizePartial s) fun t => .next (completeFrame t)

/-- `on_strobe_edge()`: framing, then the button tick (40_frame_assembler R84, D5). -/
def strobeHandler (s : State) : Result := andThen (framingStrobe s) fun t => .next (buttonTick t)

/-- `STB` (40_frame_assembler R84). -/
def execStb (s : State) : Result := deliver s.stbArmed strobeHandler s

end Sys2Proof.Machine
end

