-- ==== Sys2Proof/Machine/FrameConsumer.lean ====
section
/-! DEFINITION. The FrameConsumer (41_frame_consumer): the polling tick. -/

namespace Sys2Proof.Machine

/-- The deferred diagnostic record of the nine bytes, if its flag is set (41_frame_consumer R100). -/
def logFrameIfSet (bytes : Frame) (s : State) : State :=
  if s.logp then clearLog (emit (.logFrame bytes) s) else s

/-- The consume sequence of a complete frame (41_frame_consumer R96, R99, R100). -/
def consumeFrame (s : State) : Result :=
  withFrame s fun bytes =>
    andThen (zeroFrame (logFrameIfSet bytes (ackComplete (emit (.frame bytes) s)))) fun t =>
      .next (attach .stb (attach .clk (resetBits t)))

/-- `POLL` (41_frame_consumer R96): no effect while disabled (R97) or without a complete frame (R98). -/
def execPoll (s : State) : Result :=
  if s.enabled then if s.complete then consumeFrame s else .next s else .next s

end Sys2Proof.Machine
end

