-- ==== Sys2Proof/Machine/Dispatch.lean ====
section
/-! DEFINITION. The meaning of each instruction: one arm per constructor, each a direct call. -/

namespace Sys2Proof.Machine

def exec (i : Instr) (s : State) : Host.Outcome State Fault Refusal :=
  match i with
  | .clk d => Sys2Proof.Machine.execClk d s
  | .stb => Sys2Proof.Machine.execStb s
  | .poll => Sys2Proof.Machine.execPoll s
  | .en b => Sys2Proof.Machine.execEn b s
  | .req id => Sys2Proof.Machine.execReq id s
  | .reqPower b => Sys2Proof.Machine.execReqPower b s
  | .reqOneCup => Sys2Proof.Machine.execReqOneCup s
  | .reqTwoCups => Sys2Proof.Machine.execReqTwoCups s
  | .reqHotWater => Sys2Proof.Machine.execReqHotWater s

end Sys2Proof.Machine
end

