-- ==== Sys2Proof/Machine/Apply.lean ====
section
/-! DEFINITION. Applying event words and events, one at a time (30_encoding R61, 60_exceptions R156). -/

namespace Sys2Proof.Machine

/-- One event word applied (00_scope R11): the event it spells, or the refused mark if it spells none (60_exceptions R137). -/
def applyWord (w : Byte) (s : State) : Result :=
  match decode w with
  | .ok i => exec i s
  | .error _ => .next (markRefused s)

/-- A sequence of event words applied in order: a run's end (60_exceptions R156). -/
def applyWords : List Byte → State → Result
  | [], s => .next s
  | w :: ws, s => andThen (applyWord w s) (applyWords ws)

/-- A sequence of events applied in order. -/
def applyEvents : List Instr → State → Result
  | [], s => .next s
  | i :: is, s => andThen (exec i s) (applyEvents is)

/-- One step: the next word of the input queue is applied; with none presented the block waits (70_reset R167, log 2). -/
def stepOnce (s : State) : Result :=
  match fetch s with
  | none => .next s
  | some (w, t) => applyWord w t

end Sys2Proof.Machine
end

