-- ==== Sys2Proof/Machine/Step.lean ====
section
/-! DEFINITION. The step, and how the host puts one instruction where the step takes its next one from (log 1). -/

namespace Sys2Proof.Machine

/-- One step of the machine (00_scope R6, R11). -/
def step (s : State) : Host.Outcome State Fault Refusal := stepOnce s

/-- `s` with the opcode-table word `w` presented as its next event. -/
def State.withFetchWord (s : State) (nbits w : Nat) : State := present (tableByte nbits w) s

end Sys2Proof.Machine
end

