-- ==== Sys2Proof/Machine/Assembler.lean ====
section
/-! DEFINITION. Event scripts (30_encoding R70, R71): the statements, the expansion of each pseudo-instruction, and the words. -/

namespace Sys2Proof.Machine

/-- A statement of an event script: an event (30_encoding R70) or a pseudo-instruction (R71). -/
inductive Stmt where
  /-- one event -/
  | event (i : Instr)
  /-- `BYTE v` -/
  | byte (v : Byte)
  /-- `BITS n v` -/
  | bits (n : Nat) (v : Byte)
  /-- `FRAME b0 b1 ... b8` -/
  | frame (bytes : Vector Byte 9)
  /-- `STBS n` -/
  | stbs (n : Nat)
  /-- `POLLS n` -/
  | polls (n : Nat)
deriving DecidableEq, Repr

/-- Why a script does not assemble (30_encoding R70: "an assembly error, not a refused word"). -/
inductive AsmError where
  /-- an operand outside its legal values -/
  | illegalOperand
  /-- too many or too few operands -/
  | operandCount
  /-- no mnemonic of 30_encoding R62 or R71 -/
  | unknownMnemonic
  /-- an operand that is no number -/
  | notANumber
deriving DecidableEq, Repr

/-- The operands are legal: those of the event (30_encoding R63), or the ranges of R71. -/
def stmtWf : Stmt → Bool
  | .event i => i.wf
  | .byte _ => true
  | .bits n v => decide (1 ≤ n ∧ n ≤ 8 ∧ v.toNat < 2 ^ n)
  | .frame _ => true
  | .stbs n => decide (1 ≤ n)
  | .polls n => decide (1 ≤ n)

/-- `CLK v[0]`, ..., `CLK v[n-1]` (30_encoding R71; least significant bit first, 20_memory R44). -/
def bitsEvents (n : Nat) (v : Byte) : List Instr := (List.range n).map fun k => .clk (v.extractLsb' k 1)

/-- The events a statement stands for (30_encoding R71). -/
def expand : Stmt → List Instr
  | .event i => [i]
  | .byte v => bitsEvents 8 v
  | .bits n v => bitsEvents n v
  | .frame bytes => bytes.toList.flatMap (bitsEvents 8)
  | .stbs n => List.replicate n .stb
  | .polls n => List.replicate n .poll

/-- The words of a statement, or an assembly error (30_encoding R70, R71). -/
def assembleStmt (st : Stmt) : Except AsmError (List Byte) :=
  if stmtWf st then .ok ((expand st).map encode) else .error .illegalOperand

/-- The words of a script, in order. -/
def assemble : List Stmt → Except AsmError (List Byte)
  | [] => .ok []
  | st :: sts => do
    let ws ← assembleStmt st
    let rest ← assemble sts
    return ws ++ rest

end Sys2Proof.Machine
end

