-- ==== Sys2Proof/Machine/Contexts.lean ====
section
/-! DEFINITION. Which context runs an event and which party issues it (30_encoding R62, R69; 60_exceptions R150, R157). The
block's rules depend on neither; claims about contexts and parties are stated with these. -/

namespace Sys2Proof.Machine

/-- The two execution contexts (60_exceptions R150). -/
inductive Context where
  /-- the clock and strobe handlers -/
  | interrupt
  /-- the main context: poll tick, enable, requests -/
  | polling
deriving DecidableEq, Repr

/-- Who may apply an event (60_exceptions R157). -/
inductive Party where
  /-- the control panel, driving the lines -/
  | environment
  /-- the host's polling loop -/
  | pollingLoop
  /-- the host's lifecycle -/
  | lifecycle
  /-- the host's command surface -/
  | commandSurface
deriving DecidableEq, Repr

/-- The context column of 30_encoding R62. -/
def contextOf : Instr → Context
  | .clk _ => .interrupt
  | .stb => .interrupt
  | .poll => .polling
  | .en _ => .polling
  | .req _ => .polling
  | .reqPower _ => .polling
  | .reqOneCup => .polling
  | .reqTwoCups => .polling
  | .reqHotWater => .polling

/-- The party column of 60_exceptions R157. -/
def partyOf : Instr → Party
  | .clk _ => .environment
  | .stb => .environment
  | .poll => .pollingLoop
  | .en _ => .lifecycle
  | .req _ => .commandSurface
  | .reqPower _ => .commandSurface
  | .reqOneCup => .commandSurface
  | .reqTwoCups => .commandSurface
  | .reqHotWater => .commandSurface

end Sys2Proof.Machine
end

