-- ==== Sys2Proof/Machine/Observe.lean ====
section
/-! DEFINITION. What the outside can observe of a run: the BTN line, the FRAME_OUT port and the log (10_state R36, R37;
60_exceptions R157, R158), and when a run ends well (R156). -/

namespace Sys2Proof.Machine

/-- What the block does to the open-drain line BTN (10_state R25; the level of a released line is not the block's). -/
inductive BtnLevel where
  /-- pulled low: the active, pressed level -/
  | low
  /-- high-impedance, left to its external bias -/
  | released
deriving DecidableEq, Repr

/-- The BTN port (10_state R25, R36; 60_exceptions R153). -/
def btnPort (s : State) : BtnLevel := if s.btnDrive then .low else .released

/-- Whether a record is normative: FRAME and LOG_FRAME are, LOG_QUEUED and LOG_REJECTED are informative (10_state R37). -/
def isNormative : Record → Bool
  | .frame _ => true
  | .logFrame _ => true
  | .logQueued _ => false
  | .logRejected _ => false

/-- The normative records of a trace, the only ones a claim may rest on (93 I4). -/
def normative (rs : List Record) : List Record := rs.filter isNormative

/-- The frames handed to the decode step on FRAME_OUT, oldest first (41_frame_consumer R99). -/
def framesOut : List Record → List Frame
  | [] => []
  | .frame bytes :: rs => bytes :: framesOut rs
  | .logFrame _ :: rs => framesOut rs
  | .logQueued _ :: rs => framesOut rs
  | .logRejected _ :: rs => framesOut rs

/-- A run ends well if no word was refused (60_exceptions R156). -/
def endsWell (s : State) : Bool := !s.refused

end Sys2Proof.Machine
end

