-- ==== Sys2Proof/Safety.lean ====
section
/-! DEFINITION. The invariants of 10_state section 2 (R28 to R33) as predicates of a state, and the premises and frames that
claims are stated with. -/

namespace Sys2Proof.Machine

/-! ### Premises -/

/-- A clock edge reaches its handler: armed, enabled, and edges are not lost (60_exceptions R140, R141, R142). -/
abbrev ClkDelivered (s : State) : Prop := s.clkArmed = true ∧ s.enabled = true ∧ s.params.edgeLoss = false

/-- A strobe edge reaches its handler. -/
abbrev StbDelivered (s : State) : Prop := s.stbArmed = true ∧ s.enabled = true ∧ s.params.edgeLoss = false

/-- A strobe fills the ninth slot or finds it filled (40_frame_assembler R85, R88). -/
abbrev FillsFrame (s : State) : Prop := s.bytec.toNat = 9 ∨ (s.bytec.toNat = 8 ∧ 0 < s.bitc.toNat)

/-- Whether some strobe of a sequence of edges finds nine slots filled (40_frame_assembler R91), by counting alone: eight bits
fill a slot, a strobe fills one from a partial byte while fewer than nine are filled. `slots` and `bits` are the counts so far. -/
def strobeFindsNine : List Instr → Nat → Nat → Bool
  | [], _, _ => false
  | .clk _ :: is, slots, bits => if bits = 7 then strobeFindsNine is (slots + 1) 0 else strobeFindsNine is slots (bits + 1)
  | .stb :: is, slots, bits =>
    if 9 ≤ slots then true
    else if 0 < bits then if slots = 8 then true else strobeFindsNine is (slots + 1) 0
    else strobeFindsNine is slots bits
  | _ :: is, slots, bits => strobeFindsNine is slots bits

/-! ### Frames: what two states agree on -/

/-- The armed bits, the bit accumulator, the frame buffer, its cursor and its flags (S1 to S8) are the same. -/
abbrev SameFraming (s t : State) : Prop :=
  t.clkArmed = s.clkArmed ∧ t.stbArmed = s.stbArmed ∧ t.acc = s.acc ∧ t.bitc = s.bitc ∧ t.frame = s.frame ∧
  t.bytec = s.bytec ∧ t.complete = s.complete ∧ t.logp = s.logp

/-- The button state (S9 to S12) is the same. -/
abbrev SameButton (s t : State) : Prop :=
  t.pending = s.pending ∧ t.active = s.active ∧ t.ticks = s.ticks ∧ t.btnDrive = s.btnDrive

/-- The parameters and the queue of events still to come are the same. -/
abbrev SameSetting (s t : State) : Prop := t.params = s.params ∧ t.events = s.events

/-- The whole block, S0 to S12, is the same. -/
abbrev SameBlock (s t : State) : Prop := t.enabled = s.enabled ∧ SameFraming s t ∧ SameButton s t

/-- The trace after an event that may emit the informative record `r` (60_exceptions R152). -/
abbrev MayRecord (s : State) (r : Record) (o : List Record) : Prop := o = s.out ∨ o = s.out ++ [r]

/-! ### Invariants (10_state section 2) -/

/-- R28; `bitc < 8` is its type's. -/
abbrev RangeInv (s : State) : Prop := s.bytec.toNat ≤ 9 ∧ s.pending.toNat ≤ 6 ∧ s.ticks.toNat ≤ 11

/-- R29. -/
abbrev ArmingInv (s : State) : Prop :=
  s.clkArmed = s.stbArmed ∧ (s.clkArmed = true → s.enabled = true ∧ s.complete = false)

/-- R30. -/
abbrev CompletionInv (s : State) : Prop := s.logp = s.complete ∧ (s.complete = true → s.bytec = 0)

/-- R31. -/
abbrev ZeroInv (s : State) : Prop :=
  s.acc.toNat < 2 ^ s.bitc.toNat ∧ (s.complete = false → ∀ i, i < 9 → s.bytec.toNat ≤ i → memGet s.frame i = 0)

/-- R32. -/
abbrev ButtonInv (s : State) : Prop :=
  s.btnDrive = s.active ∧ (s.active = true → s.pending ≠ 0 ∧ s.ticks.toNat ≤ 10) ∧
  (s.enabled = false → s.pending = 0 ∧ s.active = false ∧ s.btnDrive = false)

/-- R33: a disabled block holds S1 to S12 at their reset values. -/
abbrev DisabledInv (s : State) : Prop :=
  s.enabled = false → SameFraming State.reset s ∧ SameButton State.reset s

/-- All of them, and the canonical form of the frame buffer's contents. -/
structure Inv (s : State) : Prop where
  range : RangeInv s
  arming : ArmingInv s
  completion : CompletionInv s
  zero : ZeroInv s
  button : ButtonInv s
  disabled : DisabledInv s
  canonical : s.frame.wf = true

end Sys2Proof.Machine
end

