-- ==== Sys2Proof/Certificates/Slice0/Obligations.lean ====
section
/-! DEFINITION. The statements about the model, from the numbered rules of the spec. Each docstring names what it formalises.
Where a premise says `edgeLoss = false`, P_EDGE_LOSS has its default (00_scope R8); `EdgeLossEitherLosesOrDelivers` covers true.
No statement rests on a draw, on an informative record or on `State.draws`. -/

open Sys2Proof Sys2Proof.Machine

/-! ### Encoding -/

/-- 30_encoding R61 to R63: every operation's word decodes to it, with every operand at every legal value. -/
def Obligations.EncodeThenDecode : Prop :=
  ∀ i : Instr, i.wf = true → decode (encode i) = .ok i

/-- 30_encoding R63, R68: a word that decodes is the one word of a legal operation. -/
def Obligations.DecodeThenEncode : Prop :=
  ∀ (w : Byte) (i : Instr), decode w = .ok i → encode i = w ∧ i.wf = true

/-- 30_encoding R67, R68: exactly the 17 words of the table spell an operation. -/
def Obligations.OperationsAreTheSeventeenWords : Prop :=
  ∀ w : Byte, (∃ i, decode w = .ok i) ↔
    w ∈ ([0x10, 0x11, 0x20, 0x30, 0x40, 0x41, 0x51, 0x52, 0x53, 0x54, 0x55, 0x56, 0x60, 0x61, 0x70, 0x80, 0x90] : List Byte)

/-- 30_encoding R62, R63, R68: words written out bit by bit, one of each family at least. -/
def Obligations.SampleWordsDecode : Prop :=
  decode 0b00010000 = .ok (.clk 0) ∧ decode 0b00010001 = .ok (.clk 1) ∧ decode 0b00100000 = .ok .stb ∧
  decode 0b00110000 = .ok .poll ∧ decode 0b01000000 = .ok (.en false) ∧ decode 0b01000001 = .ok (.en true) ∧
  decode 0b01010110 = .ok (.req 6) ∧ decode 0b01100001 = .ok (.reqPower true) ∧ decode 0b01110000 = .ok .reqOneCup ∧
  decode 0b10000000 = .ok .reqTwoCups ∧ decode 0b10010000 = .ok .reqHotWater

/-- 30_encoding R64: a word with `opc` 0x0 or 0xA to 0xF spells no operation; applying it sets `refused` and changes nothing else. -/
def Obligations.ReservedOpcodeIsRefused : Prop :=
  ∀ (w : Byte) (s : State), (w.extractLsb' 4 4 = 0 ∨ 0xA ≤ (w.extractLsb' 4 4).toNat) →
    (∀ i, decode w ≠ .ok i) ∧ applyWord w s = .next { s with refused := true }

/-- 30_encoding R65 over the reserved bits of R63: `w[3:1]` of CLK, EN and REQ_POWER, `w[3]` of REQ, `w[3:0]` of the rest. -/
def Obligations.ReservedOperandBitIsRefused : Prop :=
  ∀ (w : Byte) (s : State),
    (w.extractLsb' 4 4 ∈ ([0x1, 0x4, 0x6] : List (BitVec 4)) ∧ w.extractLsb' 1 3 ≠ 0) ∨
    (w.extractLsb' 4 4 = 0x5 ∧ w.extractLsb' 3 1 ≠ 0) ∨
    (w.extractLsb' 4 4 ∈ ([0x2, 0x3, 0x7, 0x8, 0x9] : List (BitVec 4)) ∧ w.extractLsb' 0 4 ≠ 0) →
    (∀ i, decode w ≠ .ok i) ∧ applyWord w s = .next { s with refused := true }

/-- 30_encoding R66: `REQ` with `id` 0 or 7 spells no operation and is refused. -/
def Obligations.ReqZeroAndSevenAreRefused : Prop :=
  ∀ (w : Byte) (s : State), w.extractLsb' 4 4 = 0x5 → w.extractLsb' 3 1 = 0 →
    (w.extractLsb' 0 3 = 0 ∨ w.extractLsb' 0 3 = 7) →
    (∀ i, decode w ≠ .ok i) ∧ applyWord w s = .next { s with refused := true }

/-! ### Steps and runs -/

/-- 00_scope R11, 60_exceptions R137: when the next word presented decodes, the step is the event's meaning on the state with
that word taken from the queue; when it spells no operation, the step sets `refused` and changes nothing else. The queue is
the model's (log 1). -/
def Obligations.StepRunsTheDecodedEvent : Prop :=
  ∀ (s : State) (w : Byte) (ws : List Byte), s.events = w :: ws →
    (∀ i, decode w = .ok i → step s = exec i { s with events := ws }) ∧
    (∀ e, decode w = .error e → step s = .next { s with events := ws, refused := true })

/-- 70_reset R167 ("after reset it waits for its first event"): with no event presented a step changes nothing. That the wait
is a step of its own is the model's (log 2). -/
def Obligations.StepWaitsWithoutAnEvent : Prop :=
  ∀ s : State, s.events = [] → step s = .next s

/-- 00_scope R11, 60_exceptions R136: no event yields a fault, in any state; and in this model none is left without a meaning. -/
def Obligations.NoEventFaults : Prop :=
  (∀ (i : Instr) (s : State), ∃ t, exec i s = .next t) ∧ (∀ s : State, ∃ t, step s = .next t)

/-- 30_encoding R61, 60_exceptions R156: stepping the machine once per word presented is applying the words one at a time.
The queue is the model's (log 1). -/
def Obligations.QueueRunAppliesTheWords : Prop :=
  ∀ (ws : List Byte) (s : State),
    Sys2Proof.core.run ws.length { s with events := ws } = applyWords ws { s with events := [] }

/-- 60_exceptions R137, R156: a run ends well exactly if it began unrefused and every word spelled an operation. -/
def Obligations.RunEndsWellIffNoWordRefused : Prop :=
  ∀ (ws : List Byte) (s t : State), applyWords ws s = .next t →
    (endsWell t = true ↔ endsWell s = true ∧ ∀ w ∈ ws, ∃ i, decode w = .ok i)

/-- 10_state R26: no event clears the refused mark (EN 0 among them, 60_exceptions R138). -/
def Obligations.RefusedMarkIsSticky : Prop :=
  ∀ s t : State, step s = .next t → s.refused = true → t.refused = true

/-- 10_state R37: the output trace is appended to, never edited. -/
def Obligations.OutputTraceOnlyGrows : Prop :=
  ∀ s t : State, step s = .next t → s.out <+: t.out

/-! ### Reset and invariants -/

/-- 70_reset R166: the value of every element after reset. -/
def Obligations.ResetValues : Prop :=
  State.reset.enabled = false ∧ State.reset.clkArmed = false ∧ State.reset.stbArmed = false ∧ State.reset.acc = 0x00 ∧
  State.reset.bitc = 0 ∧ (∀ i, i < 9 → memRead i State.reset = .ok 0x00) ∧ State.reset.bytec = 0 ∧
  State.reset.complete = false ∧ State.reset.logp = false ∧ State.reset.pending = 0 ∧ State.reset.active = false ∧
  State.reset.ticks = 0 ∧ State.reset.btnDrive = false ∧ State.reset.refused = false ∧ State.reset.out = []

/-- 10_state R28 to R33 hold at reset. -/
def Obligations.ResetMeetsTheInvariants : Prop := Inv State.reset

/-- 10_state R28 to R33, with the canonical form of the frame buffer: every step keeps them. -/
def Obligations.StepKeepsTheInvariants : Prop :=
  ∀ s t : State, Inv s → step s = .next t → Inv t

/-- The frame buffer's contents stay in canonical form (log 8): slots rising, all below 9, no 0x00 listed. This needs no other
invariant. -/
def Obligations.StepKeepsTheFrameCanonical : Prop :=
  ∀ s t : State, s.frame.wf = true → step s = .next t → t.frame.wf = true

/-- 20_memory R41: a slot reads back what was written, every other slot is unchanged; an index outside 0 to 8 is a fault (the
model's, log 8). -/
def Obligations.FrameSlotsReadBackWrites : Prop :=
  ∀ (i : Nat) (v : Byte) (s : State),
    (i < 9 → ∃ t, memWrite i v s = .next t ∧ t = { s with frame := t.frame } ∧ memRead i t = .ok v ∧
      ∀ a, a ≠ i → memRead a t = memRead a s) ∧
    (9 ≤ i → memWrite i v s = .fault (.noSuchSlot i) ∧ memRead i s = .error (.noSuchSlot i))

/-! ### Delivery of edges -/

/-- 60_exceptions R140: an edge while its source is detached changes no state. -/
def Obligations.EdgesWhileDetachedAreLost : Prop :=
  (∀ (s : State) (d : BitVec 1), s.clkArmed = false → exec (.clk d) s = .next s) ∧
  (∀ s : State, s.stbArmed = false → exec .stb s = .next s)

/-- 60_exceptions R142: a handler returns at once while disabled (only the model's draw count may move, when P_EDGE_LOSS is
true); and under the invariants an armed source finds the block enabled, so the guard never changes an outcome. -/
def Obligations.HandlersReturnWhileDisabled : Prop :=
  (∀ (s : State) (d : BitVec 1), s.enabled = false → ∃ n, exec (.clk d) s = .next { s with draws := n }) ∧
  (∀ s : State, s.enabled = false → ∃ n, exec .stb s = .next { s with draws := n }) ∧
  (∀ s : State, Inv s → s.clkArmed = true ∨ s.stbArmed = true → s.enabled = true)

/-- 60_exceptions R141: with P_EDGE_LOSS true an armed edge either changes no state or does what it does with P_EDGE_LOSS
false. (The draw count is the model's, log 6.) -/
def Obligations.EdgeLossEitherLosesOrDelivers : Prop :=
  ∀ (i : Instr) (s : State), contextOf i = .interrupt → s.params.edgeLoss = true →
    (∃ n, exec i s = .next { s with draws := n }) ∨
    (∃ n t, exec i { s with params := { s.params with edgeLoss := false }, draws := n } = .next t ∧
      exec i s = .next { t with params := s.params })

/-! ### CLK -/

/-- 40_frame_assembler R82: the sample is written to bit `bitc` of the accumulator by OR; where bits `bitc` to 7 are 0 this
sets that bit to `d` and leaves the lower bits unchanged. At the eighth bit the value goes on to the slot. -/
def Obligations.ClkInsertsTheBit : Prop :=
  ∀ (s : State) (d : BitVec 1), ClkDelivered s →
    ∃ v : Byte, v = s.acc ||| (d.setWidth 8 <<< s.bitc.toNat) ∧
      (s.acc.toNat < 2 ^ s.bitc.toNat →
        v.getLsbD s.bitc.toNat = d.getLsbD 0 ∧ ∀ j, j < s.bitc.toNat → v.getLsbD j = s.acc.getLsbD j) ∧
      (s.bitc.toNat < 7 → exec (.clk d) s = .next { s with acc := v, bitc := s.bitc + 1 }) ∧
      (s.bitc.toNat = 7 → s.bytec.toNat < 9 → ∃ t, exec (.clk d) s = .next t ∧ memRead s.bytec.toNat t = .ok v)

/-- 40_frame_assembler R83: the eighth bit appends the byte and moves the cursor where the frame has room, drops it where it is
full, and resets the accumulator either way; completing the ninth byte does not complete the frame. -/
def Obligations.ClkCompletesTheByte : Prop :=
  ∀ (s : State) (d : BitVec 1), ClkDelivered s → s.bitc.toNat = 7 →
    (s.bytec.toNat < 9 → ∃ t, exec (.clk d) s = .next t ∧
      t = { s with acc := 0, bitc := 0, bytec := s.bytec + 1, frame := t.frame } ∧
      memRead s.bytec.toNat t = .ok (s.acc ||| (d.setWidth 8 <<< 7)) ∧
      ∀ a, a ≠ s.bytec.toNat → memRead a t = memRead a s) ∧
    (9 ≤ s.bytec.toNat → exec (.clk d) s = .next { s with acc := 0, bitc := 0 })

/-- 20_memory R44: eight delivered clock edges assemble a byte least significant bit first. -/
def Obligations.EightClocksAssembleAByte : Prop :=
  ∀ (s : State) (b0 b1 b2 b3 b4 b5 b6 b7 : BitVec 1),
    ClkDelivered s → s.bitc = 0 → s.acc = 0 → s.bytec.toNat < 9 →
    ∃ t, applyEvents [.clk b0, .clk b1, .clk b2, .clk b3, .clk b4, .clk b5, .clk b6, .clk b7] s = .next t ∧
      t = { s with bytec := s.bytec + 1, frame := t.frame } ∧
      memRead s.bytec.toNat t = .ok (b0.setWidth 8 ||| (b1.setWidth 8 <<< 1) ||| (b2.setWidth 8 <<< 2) |||
        (b3.setWidth 8 <<< 3) ||| (b4.setWidth 8 <<< 4) ||| (b5.setWidth 8 <<< 5) ||| (b6.setWidth 8 <<< 6) |||
        (b7.setWidth 8 <<< 7)) ∧
      ∀ a, a ≠ s.bytec.toNat → memRead a t = memRead a s

/-- Frame of CLK (40_frame_assembler R81, "State written: S3, S4, S5 (one slot), S6"): the slot stored to is the byte cursor's,
and only an eighth bit with room stores. -/
def Obligations.ClkFrame : Prop :=
  ∀ (s t : State) (d : BitVec 1), exec (.clk d) s = .next t →
    t.enabled = s.enabled ∧ t.clkArmed = s.clkArmed ∧ t.stbArmed = s.stbArmed ∧ t.complete = s.complete ∧ t.logp = s.logp ∧
    SameButton s t ∧ t.refused = s.refused ∧ t.out = s.out ∧ SameSetting s t ∧
    (∀ a, a ≠ s.bytec.toNat → memRead a t = memRead a s) ∧
    (s.bitc.toNat ≠ 7 ∨ 9 ≤ s.bytec.toNat → t.bytec = s.bytec ∧ ∀ a, memRead a t = memRead a s)

/-! ### STB -/

/-- 40_frame_assembler R86, R87: a pending partial byte of a frame that is not full is finalized: the accumulator is reset, the
cursor moves (from 8 to 9, which completes the frame and resets it in the same strobe, R88), and the slot's value is as P_PARTIAL_STORE says, either
value under `either`. -/
def Obligations.StbFinalizesThePartialByte : Prop :=
  ∀ s : State, StbDelivered s → 0 < s.bitc.toNat → s.bytec.toNat < 9 →
    ∃ t, exec .stb s = .next t ∧ t.acc = 0 ∧ t.bitc = 0 ∧
      (s.bytec.toNat < 8 → t.bytec = s.bytec + 1) ∧ (s.bytec.toNat = 8 → t.bytec = 0 ∧ t.complete = true) ∧
      (s.params.partialStore = .keep → memRead s.bytec.toNat t = memRead s.bytec.toNat s) ∧
      (s.params.partialStore = .store → memRead s.bytec.toNat t = .ok s.acc) ∧
      (memRead s.bytec.toNat t = memRead s.bytec.toNat s ∨ memRead s.bytec.toNat t = .ok s.acc) ∧
      ∀ a, a ≠ s.bytec.toNat → memRead a t = memRead a s

/-- 40_frame_assembler R88: a strobe that finds the frame full, or fills it (D5), sets the completeness and deferred-log flags,
resets the byte cursor and detaches both sources; no record is emitted. -/
def Obligations.StbCompletesTheFullFrame : Prop :=
  ∀ s : State, StbDelivered s → FillsFrame s →
    ∃ t, exec .stb s = .next t ∧ t.complete = true ∧ t.logp = true ∧ t.bytec = 0 ∧ t.clkArmed = false ∧ t.stbArmed = false ∧
      t.out = s.out

/-- 40_frame_assembler R89: with no pending bits and a frame that is not full, the framing state is unchanged. -/
def Obligations.StbWithoutPendingBitsKeepsFraming : Prop :=
  ∀ s : State, StbDelivered s → s.bitc = 0 → s.bytec.toNat < 9 →
    ∃ t, exec .stb s = .next t ∧ SameFraming s t

/-- 40_frame_assembler R90: bits pending at a full frame's strobe are neither stored nor reset, and the frame completes; through
every sequence of events without POLL and EN 0 they stay, and the POLL (which consumes) or EN 0 that follows it clears them. -/
def Obligations.StbFullFrameKeepsPendingBits : Prop :=
  ∀ s : State, StbDelivered s → 0 < s.bitc.toNat → s.bytec.toNat = 9 →
    ∃ t, exec .stb s = .next t ∧ t.acc = s.acc ∧ t.bitc = s.bitc ∧ t.frame = s.frame ∧ t.complete = true ∧
      ∀ is : List Instr, (∀ i ∈ is, i ≠ .poll ∧ i ≠ .en false) →
        ∃ u, applyEvents is t = .next u ∧ u.acc = s.acc ∧ u.bitc = s.bitc ∧ u.enabled = true ∧ u.complete = true ∧
          (∃ v, exec .poll u = .next v ∧ v.acc = 0 ∧ v.bitc = 0) ∧
          (∃ v, exec (.en false) u = .next v ∧ v.acc = 0 ∧ v.bitc = 0)

/-- 42_button_sequencer R109: a delivered strobe with the button IDLE starts the press of a pending command, with the tick
counter 0 and BTN driven; with none pending it changes nothing of the button. -/
def Obligations.StbStartsThePress : Prop :=
  ∀ s : State, StbDelivered s → s.active = false →
    ∃ t, exec .stb s = .next t ∧
      (s.pending ≠ 0 → t.active = true ∧ t.ticks = 0 ∧ t.btnDrive = true ∧ t.pending = s.pending) ∧
      (s.pending = 0 → SameButton s t)

/-- 42_button_sequencer R110: each strobe tick of a press counts; the one that takes the counter above 10 ends the press and
leaves `ticks` at 11. The premise `ticks ≤ 10` is 10_state R32. -/
def Obligations.StbCountsAndEndsThePress : Prop :=
  ∀ s : State, StbDelivered s → s.active = true → s.ticks.toNat ≤ 10 →
    ∃ t, exec .stb s = .next t ∧ t.ticks.toNat = s.ticks.toNat + 1 ∧
      (s.ticks.toNat + 1 ≤ 10 → t.active = true ∧ t.pending = s.pending ∧ t.btnDrive = s.btnDrive) ∧
      (10 < s.ticks.toNat + 1 → t.active = false ∧ t.pending = 0 ∧ t.btnDrive = false)

/-- Frame of STB (40_frame_assembler R84, "State written"): the slot stored to is the byte cursor's, and only a partial byte
with room stores. -/
def Obligations.StbFrame : Prop :=
  ∀ s t : State, exec .stb s = .next t →
    t.enabled = s.enabled ∧ t.refused = s.refused ∧ t.out = s.out ∧ SameSetting s t ∧
    (∀ a, a ≠ s.bytec.toNat → memRead a t = memRead a s) ∧
    (s.bitc.toNat = 0 ∨ 9 ≤ s.bytec.toNat → t.acc = s.acc ∧ t.bitc = s.bitc ∧ ∀ a, memRead a t = memRead a s) ∧
    (¬ FillsFrame s → t.complete = s.complete ∧ t.logp = s.logp ∧ t.clkArmed = s.clkArmed ∧ t.stbArmed = s.stbArmed ∧
      (s.bitc.toNat = 0 → t.bytec = s.bytec))

/-- 42_button_sequencer R111: BTN is driven across the activating strobe and the 10 after it, with `ticks` counting 0 to 10,
and released at the 11th after it. Framing is a no-op here, so that every strobe is delivered. -/
def Obligations.PressLastsTenSubsequentTicks : Prop :=
  ∀ s : State, StbDelivered s → s.bitc = 0 → s.bytec.toNat < 9 → s.active = false → s.pending ≠ 0 →
    (∀ k, k ≤ 10 → ∃ t, applyEvents (List.replicate (k + 1) .stb) s = .next t ∧
      t.active = true ∧ t.ticks.toNat = k ∧ btnPort t = .low ∧ t.pending = s.pending) ∧
    (∃ t, applyEvents (List.replicate 12 .stb) s = .next t ∧
      t.active = false ∧ t.ticks.toNat = 11 ∧ btnPort t = .released ∧ t.pending = 0)

/-- 42_button_sequencer R112: the identifier only decides whether a press starts: two states that differ in which command is
pending go on differing in nothing else. -/
def Obligations.StbUsesTheIdentifierOnlyAsPresence : Prop :=
  ∀ (s t : State) (p q : CmdId), p ≠ 0 → q ≠ 0 → exec .stb { s with pending := p } = .next t →
    ∃ r, exec .stb { s with pending := q } = .next { t with pending := r }

/-- 40_frame_assembler R91: from a state whose frame is not complete and whose sources are attached, a sequence of edges
completes the frame exactly if one of its strobes finds nine slots filled, counting the bytes and partial bytes alone. -/
def Obligations.FrameCompletesAtAStrobeWithNineSlots : Prop :=
  ∀ (is : List Instr) (s t : State), s.clkArmed = true → StbDelivered s → s.bytec.toNat ≤ 9 → s.complete = false →
    (∀ i ∈ is, contextOf i = .interrupt) → applyEvents is s = .next t →
    (t.complete = true ↔ strobeFindsNine is s.bytec.toNat s.bitc.toNat = true)

/-! ### POLL -/

/-- 41_frame_consumer R97, R98: POLL while disabled, or without a complete frame, writes no state and emits nothing. -/
def Obligations.PollWithoutAFrameDoesNothing : Prop :=
  ∀ s : State, s.enabled = false ∨ s.complete = false → exec .poll s = .next s

/-- 41_frame_consumer R99, R100: a consuming POLL emits the nine bytes in slot order, then one LOG_FRAME of the same bytes if
the deferred-log flag is set; it clears both flags, zeroes the buffer and the bit accumulator, and attaches both sources. -/
def Obligations.PollDeliversTheFrame : Prop :=
  ∀ s : State, s.enabled = true → s.complete = true →
    ∃ (bytes : Frame) (t : State), (∀ i : Fin 9, memRead i s = .ok bytes[i]) ∧ exec .poll s = .next t ∧
      t = { s with
        out := s.out ++ Record.frame bytes :: (if s.logp then [.logFrame bytes] else [])
        complete := false, logp := false, acc := 0, bitc := 0, clkArmed := true, stbArmed := true, frame := t.frame } ∧
      ∀ i, i < 9 → memRead i t = .ok 0x00

/-- 20_memory R48: reading is destructive; a second POLL does nothing. -/
def Obligations.SecondPollDoesNothing : Prop :=
  ∀ s t : State, exec .poll s = .next t → exec .poll t = .next t

/-- Frame of POLL (41_frame_consumer R96, "State written"): the slots stored to are 0 to 8, all of them or none. -/
def Obligations.PollFrame : Prop :=
  ∀ s t : State, exec .poll s = .next t →
    t.enabled = s.enabled ∧ t.bytec = s.bytec ∧ SameButton s t ∧ t.refused = s.refused ∧ SameSetting s t ∧
    t.draws = s.draws ∧ (∀ a, 9 ≤ a → memGet t.frame a = memGet s.frame a) ∧
    (s.enabled = false ∨ s.complete = false → ∀ a, memRead a t = memRead a s)

/-- 41_frame_consumer R101, 20_memory R52: whatever comes between a completion and its POLL, short of EN 0, that POLL delivers
exactly the bytes that were complete, once; and meanwhile the press does not move (70_reset R173). -/
def Obligations.CompletedFrameIsDeliveredUntouched : Prop :=
  ∀ (s : State) (is : List Instr) (bytes : Frame), Inv s → s.complete = true → (∀ i ∈ is, i ≠ .poll ∧ i ≠ .en false) →
    readFrame s = .ok bytes →
    ∃ t u, applyEvents is s = .next t ∧ exec .poll t = .next u ∧
      framesOut t.out = framesOut s.out ∧ framesOut u.out = framesOut s.out ++ [bytes] ∧
      t.active = s.active ∧ t.ticks = s.ticks ∧ t.btnDrive = s.btnDrive

/-- 20_memory R44, R45; 40_frame_assembler R83, R88; 41_frame_consumer R99, R100: any nine bytes clocked in from an empty frame,
then a strobe and a POLL, are delivered as they were, logged once, and leave capture ready. -/
def Obligations.NineBytesAreDeliveredInOrder : Prop :=
  ∀ (s : State) (bytes : Frame), ClkDelivered s → s.stbArmed = true → s.bitc = 0 → s.acc = 0 → s.bytec = 0 →
    ∃ t, applyEvents (expand (.frame bytes) ++ [.stb, .poll]) s = .next t ∧
      t.out = s.out ++ [.frame bytes, .logFrame bytes] ∧ t.complete = false ∧ t.logp = false ∧
      t.acc = 0 ∧ t.bitc = 0 ∧ t.bytec = 0 ∧ t.clkArmed = true ∧ t.stbArmed = true ∧
      ∀ i, i < 9 → memRead i t = .ok 0x00

/-! ### EN -/

/-- 43_enabled_gate R122: EN 1 enables a disabled block, releases BTN and attaches both sources; it does nothing to an enabled
one. -/
def Obligations.EnableAttachesBothSources : Prop :=
  ∀ s : State,
    (s.enabled = false →
      exec (.en true) s = .next { s with btnDrive := false, enabled := true, clkArmed := true, stbArmed := true }) ∧
    (s.enabled = true → exec (.en true) s = .next s)

/-- 43_enabled_gate R123: EN 0 disables an enabled block, detaches both sources, releases BTN and resets every transient field;
it emits nothing; it does nothing to a disabled one. -/
def Obligations.DisableResetsEveryTransientField : Prop :=
  ∀ s : State,
    (s.enabled = true → ∃ t, exec (.en false) s = .next t ∧
      t = { s with
        enabled := false, clkArmed := false, stbArmed := false, btnDrive := false, pending := 0, active := false, ticks := 0
        complete := false, logp := false, acc := 0, bitc := 0, bytec := 0, frame := t.frame } ∧
      ∀ i, i < 9 → memRead i t = .ok 0x00) ∧
    (s.enabled = false → exec (.en false) s = .next s)

/-- 43_enabled_gate R129: EN 0 then EN 1 from an enabled block yields the block that EN 1 yields from reset. -/
def Obligations.DisableThenEnableIsFreshSetup : Prop :=
  ∀ s : State, s.enabled = true → s.frame.wf = true →
    ∃ t r, applyEvents [.en false, .en true] s = .next t ∧ exec (.en true) State.reset = .next r ∧
      SameBlock r t ∧ t.clkArmed = true ∧ t.stbArmed = true ∧ t.refused = s.refused ∧ t.out = s.out ∧ SameSetting s t

/-- Frame of EN (43_enabled_gate R122, R123): the trace, the mark and the setting are unchanged; EN 1 stores nothing to the
frame buffer and leaves every element but S0, S1, S2 and S12; EN 0 stores to slots 0 to 8, all of them or none. -/
def Obligations.EnFrame : Prop :=
  ∀ (s t : State) (b : Bool), exec (.en b) s = .next t →
    t.refused = s.refused ∧ t.out = s.out ∧ SameSetting s t ∧ t.draws = s.draws ∧
    (∀ a, 9 ≤ a → memGet t.frame a = memGet s.frame a) ∧
    (b = true → t.acc = s.acc ∧ t.bitc = s.bitc ∧ t.bytec = s.bytec ∧ t.complete = s.complete ∧ t.logp = s.logp ∧
      t.pending = s.pending ∧ t.active = s.active ∧ t.ticks = s.ticks ∧ ∀ a, memRead a t = memRead a s) ∧
    (b = false → s.enabled = false → ∀ a, memRead a t = memRead a s)

/-- 60_exceptions R155, 70_reset R169: while the block is disabled and its sources detached, no sequence of events without an
EN 1 changes any of S0 to S12 or emits a normative record. -/
def Obligations.DisabledBlockWaitsForEnable : Prop :=
  ∀ (s : State) (is : List Instr), s.enabled = false → s.clkArmed = false → s.stbArmed = false → .en true ∉ is →
    ∃ t, applyEvents is s = .next t ∧ SameBlock s t ∧ normative t.out = normative s.out

/-! ### Requests -/

/-- 42_button_sequencer R106, R107: a request while enabled sets the pending identifier, whatever was pending before, and leaves
the press as it is; while disabled it is rejected and no state changes. The informative record may be emitted or not, as R106
and 60_exceptions R152 leave it (log 7). -/
def Obligations.RequestSetsPending : Prop :=
  ∀ (s : State) (id : CmdId), 1 ≤ id.toNat → id.toNat ≤ 6 →
    encode (.req id) = 0x50 ||| id.setWidth 8 ∧
    (s.enabled = true → ∃ o n, exec (.req id) s = .next { s with pending := id, out := o, draws := n } ∧
      MayRecord s (.logQueued id) o) ∧
    (s.enabled = false → ∃ o n, exec (.req id) s = .next { s with out := o, draws := n } ∧ MayRecord s (.logRejected id) o)

/-- 43_enabled_gate R124 to R128: the named requests are requests with a fixed identifier, rejected while disabled; REQ_POWER
has the same effect for both values of its operand. -/
def Obligations.NamedRequestsSetTheirIdentifier : Prop :=
  ∀ s : State,
    encode (.reqPower false) = 0x60 ∧ encode (.reqPower true) = 0x61 ∧ encode .reqOneCup = 0x70 ∧
    encode .reqTwoCups = 0x80 ∧ encode .reqHotWater = 0x90 ∧
    (∀ b, exec (.reqPower b) s = exec (.req 1) s) ∧ exec .reqOneCup s = exec (.req 4) s ∧
    exec .reqTwoCups s = exec (.req 5) s ∧ exec .reqHotWater s = exec (.req 3) s ∧
    (s.enabled = true →
      (∀ b, ∃ o n, exec (.reqPower b) s = .next { s with pending := 1, out := o, draws := n } ∧ MayRecord s (.logQueued 1) o) ∧
      (∃ o n, exec .reqOneCup s = .next { s with pending := 4, out := o, draws := n } ∧ MayRecord s (.logQueued 4) o) ∧
      (∃ o n, exec .reqTwoCups s = .next { s with pending := 5, out := o, draws := n } ∧ MayRecord s (.logQueued 5) o) ∧
      (∃ o n, exec .reqHotWater s = .next { s with pending := 3, out := o, draws := n } ∧ MayRecord s (.logQueued 3) o)) ∧
    (s.enabled = false →
      (∀ b, ∃ o n, exec (.reqPower b) s = .next { s with out := o, draws := n } ∧ MayRecord s (.logRejected 1) o) ∧
      (∃ o n, exec .reqOneCup s = .next { s with out := o, draws := n } ∧ MayRecord s (.logRejected 4) o) ∧
      (∃ o n, exec .reqTwoCups s = .next { s with out := o, draws := n } ∧ MayRecord s (.logRejected 5) o) ∧
      (∃ o n, exec .reqHotWater s = .next { s with out := o, draws := n } ∧ MayRecord s (.logRejected 3) o))

/-- 42_button_sequencer R106, 43_enabled_gate R124: a request while disabled is rejected, with no state change. -/
def Obligations.RequestsWhileDisabledAreRejected : Prop :=
  ∀ (s : State) (i : Instr), s.enabled = false → i.wf = true → partyOf i = .commandSurface →
    ∃ o n, exec i s = .next { s with out := o, draws := n } ∧ normative o = normative s.out

/-- The model's own choice (log 9): an ill-formed REQ, which no word decodes to, is refused as the word of 30_encoding R66 is. -/
def Obligations.IllFormedRequestIsRefused : Prop :=
  ∀ (s : State) (id : CmdId), id = 0 ∨ id = 7 → exec (.req id) s = .next { s with refused := true }

/-- Frame of the requests (42_button_sequencer R106, "State written: S9 only"): nothing but the pending identifier, the trace
and the model's draw count, and the mark for an ill-formed one; the frame buffer is untouched. -/
def Obligations.RequestFrame : Prop :=
  ∀ (s t : State) (i : Instr), partyOf i = .commandSurface → exec i s = .next t →
    t.enabled = s.enabled ∧ SameFraming s t ∧ t.active = s.active ∧ t.ticks = s.ticks ∧ t.btnDrive = s.btnDrive ∧
    SameSetting s t ∧ (i.wf = true → t.refused = s.refused) ∧ normative t.out = normative s.out ∧
    ∀ a, memRead a t = memRead a s

/-- 70_reset R175: a request made during a press is cleared when that press ends, so it is never pressed. Framing is a no-op
here, so that every strobe is delivered. -/
def Obligations.RequestDuringAPressIsNeverPressed : Prop :=
  ∀ (s : State) (id : CmdId), StbDelivered s → s.bitc = 0 → s.bytec.toNat < 9 → s.active = true → s.ticks.toNat ≤ 10 →
    1 ≤ id.toNat → id.toNat ≤ 6 →
    ∃ t u, exec (.req id) s = .next t ∧ t.pending = id ∧ t.active = true ∧ t.ticks = s.ticks ∧
      applyEvents (List.replicate (11 - s.ticks.toNat) .stb) t = .next u ∧
      u.active = false ∧ u.pending = 0 ∧ btnPort u = .released

/-! ### Who writes what -/

/-- 10_state R14: only the EN event writes the enabled flag. -/
def Obligations.OnlyEnWritesEnabled : Prop :=
  ∀ (i : Instr) (s t : State), exec i s = .next t → t.enabled ≠ s.enabled → ∃ b, i = .en b ∧ t.enabled = b

/-- 10_state R15: the armed bits are set by EN 1 and by a POLL that consumes a frame, and cleared by a completing strobe and by
EN 0, and by nothing else. -/
def Obligations.OnlyTheseEventsArmAndDisarm : Prop :=
  ∀ (i : Instr) (s t : State), exec i s = .next t →
    ((s.clkArmed = false ∧ t.clkArmed = true) ∨ (s.stbArmed = false ∧ t.stbArmed = true) →
      i = .en true ∨ (i = .poll ∧ s.enabled = true ∧ s.complete = true)) ∧
    ((s.clkArmed = true ∧ t.clkArmed = false) ∨ (s.stbArmed = true ∧ t.stbArmed = false) →
      (i = .stb ∧ FillsFrame s) ∨ i = .en false)

/-- 10_state R20: completeness is set only by a completing strobe, and cleared only by a POLL that consumes the frame and by
EN 0. -/
def Obligations.OnlyTheseEventsChangeCompleteness : Prop :=
  ∀ (i : Instr) (s t : State), exec i s = .next t →
    (s.complete = false ∧ t.complete = true → i = .stb ∧ FillsFrame s) ∧
    (s.complete = true ∧ t.complete = false → (i = .poll ∧ s.enabled = true) ∨ i = .en false)

/-- 42_button_sequencer R113, 70_reset R174: a press ends only by a delivered strobe tick that takes its counter above 10, or by
EN 0; while it is active, `BTN` is released by nothing else. The premise `ticks ≤ 10` is 10_state R32. -/
def Obligations.OnlyTheseEventsEndAPress : Prop :=
  ∀ (i : Instr) (s t : State), exec i s = .next t → s.active = true → s.ticks.toNat ≤ 10 → s.enabled = true →
    t.active = false ∨ t.btnDrive ≠ s.btnDrive →
    (i = .stb ∧ s.stbArmed = true ∧ s.ticks.toNat = 10) ∨ i = .en false

/-- 10_state R27, with the writers column of R13: what each context and each party leaves unwritten. Interrupt context: S0, S13,
S14; CLK also S1, S2 and S7 to S12. The polling loop: S0, S6, S9 to S13. The command surface: S0 to S8, S10 to S12, S13 for a
well-formed request (log 9 has the other), and of S14 the normative records. The lifecycle: S13, S14. -/
def Obligations.ContextsWriteOnlyTheirState : Prop :=
  ∀ (i : Instr) (s t : State), exec i s = .next t →
    (contextOf i = .interrupt → t.enabled = s.enabled ∧ t.refused = s.refused ∧ t.out = s.out) ∧
    (contextOf i = .interrupt → i ≠ .stb → t.clkArmed = s.clkArmed ∧ t.stbArmed = s.stbArmed ∧
      t.complete = s.complete ∧ t.logp = s.logp ∧ SameButton s t) ∧
    (partyOf i = .pollingLoop → t.enabled = s.enabled ∧ t.bytec = s.bytec ∧ SameButton s t ∧ t.refused = s.refused) ∧
    (partyOf i = .commandSurface → t.enabled = s.enabled ∧ SameFraming s t ∧
      t.active = s.active ∧ t.ticks = s.ticks ∧ t.btnDrive = s.btnDrive ∧ (i.wf = true → t.refused = s.refused) ∧
      normative t.out = normative s.out) ∧
    (partyOf i = .lifecycle → t.refused = s.refused ∧ t.out = s.out)

/-! ### Event scripts -/

/-- 30_encoding R70, R71: a legal statement assembles, and its words decode to the events it stands for. -/
def Obligations.AssembledWordsDecodeToTheExpansion : Prop :=
  ∀ st : Stmt, stmtWf st = true →
    ∃ ws, assembleStmt st = .ok ws ∧ ws.map decode = (expand st).map .ok

/-- 30_encoding R71: the words of each pseudo-instruction. -/
def Obligations.PseudoInstructionWords : Prop :=
  (∀ v : Byte, assembleStmt (.byte v) = .ok ((List.range 8).map fun k => (0x10 : Byte) ||| (v.extractLsb' k 1).setWidth 8) ∧
    assembleStmt (.byte v) = assembleStmt (.bits 8 v)) ∧
  (∀ (n : Nat) (v : Byte), 1 ≤ n → n ≤ 8 → v.toNat < 2 ^ n →
    assembleStmt (.bits n v) = .ok ((List.range n).map fun k => (0x10 : Byte) ||| (v.extractLsb' k 1).setWidth 8)) ∧
  (∀ bytes : Frame, ∃ ws, assembleStmt (.frame bytes) = .ok ws ∧ ws.length = 72 ∧
    assemble (bytes.toList.map .byte) = .ok ws) ∧
  (∀ n : Nat, 1 ≤ n → assembleStmt (.stbs n) = .ok (List.replicate n 0x20)) ∧
  (∀ n : Nat, 1 ≤ n → assembleStmt (.polls n) = .ok (List.replicate n 0x30))
end

