-- ==== Sys2Proof/Laws/Memory.lean ====
section
/-! SUPPORT. The laws of the frame buffer's contents: read after write, every other slot unchanged, and the canonical form kept. -/

namespace Sys2Proof.Machine

@[simp] theorem memGet_nil (a : Nat) : memGet [] a = 0 := rfl

@[simp] theorem memErase_nil (a : Nat) : memErase [] a = [] := rfl

theorem memGet_memErase (m : Memory) (a b : Nat) :
    memGet (memErase m a) b = if a = b then 0 else memGet m b := by
  induction m with
  | nil => simp
  | cons c m ih =>
    obtain ⟨k, v⟩ := c
    by_cases hk : k = a
    · subst hk
      simp only [memErase, if_true, ih]
      by_cases hb : k = b <;> simp [memGet, hb]
    · by_cases hb : k = b
      · subst hb; simp [memErase, memGet, hk, Ne.symm hk]
      · simp [memErase, memGet, hk, hb, ih]

theorem memGet_memInsert_same (m : Memory) (a : Nat) (v : Byte) (h : memGet m a = 0)
    (hn : ∀ w, (a, w) ∉ m) : memGet (memInsert m a v) a = v := by
  induction m with
  | nil => simp [memInsert, memGet]
  | cons c m ih =>
    obtain ⟨k, w⟩ := c
    have hk : k ≠ a := fun e => hn w (by simp [e])
    by_cases hlt : a < k
    · simp [memInsert, memGet, hlt]
    · simp only [memInsert, hlt, if_false, memGet, if_neg hk] at h ⊢
      exact ih h fun x hx => hn x (List.mem_cons_of_mem _ hx)

theorem memGet_memInsert_other (m : Memory) {a b : Nat} (v : Byte) (hab : a ≠ b) :
    memGet (memInsert m a v) b = memGet m b := by
  induction m with
  | nil => simp [memInsert, memGet, hab]
  | cons c m ih =>
    obtain ⟨k, w⟩ := c
    by_cases hlt : a < k <;> simp [memInsert, memGet, hlt, hab, ih]

theorem notMem_memErase (m : Memory) (a : Nat) (w : Byte) : (a, w) ∉ memErase m a := by
  induction m with
  | nil => simp
  | cons c m ih =>
    obtain ⟨k, v⟩ := c
    by_cases hk : k = a
    · simpa [memErase, hk] using ih
    · simpa [memErase, hk, Ne.symm hk] using ih

/-- A write is read back, and leaves every other slot alone. -/
theorem memGet_memSet (m : Memory) (a b : Nat) (v : Byte) :
    memGet (memSet m a v) b = if a = b then v else memGet m b := by
  unfold memSet
  split
  · next h => simp [memGet_memErase, h]
  · by_cases hab : a = b
    · subst hab
      simp only [if_true]
      exact memGet_memInsert_same _ _ _ (by simp [memGet_memErase]) (notMem_memErase m a)
    · simp [memGet_memInsert_other _ _ hab, memGet_memErase, hab]

@[simp] theorem memGet_memSet_same (m : Memory) (a : Nat) (v : Byte) : memGet (memSet m a v) a = v := by
  simp [memGet_memSet]

theorem memGet_memSet_other (m : Memory) {a b : Nat} (v : Byte) (h : b ≠ a) :
    memGet (memSet m a v) b = memGet m b := by
  simp [memGet_memSet, Ne.symm h]

/-! ### The canonical form -/

theorem Memory.wfFrom_cons (lo a : Nat) (v : Byte) (m : Memory) :
    Memory.wfFrom lo ((a, v) :: m) = true ↔ lo ≤ a ∧ a < 9 ∧ v ≠ 0 ∧ Memory.wfFrom (a + 1) m = true := by
  simp [Memory.wfFrom, and_assoc]

theorem Memory.wfFrom_mono {m : Memory} {lo lo' : Nat} (hle : lo' ≤ lo) (h : Memory.wfFrom lo m = true) :
    Memory.wfFrom lo' m = true := by
  cases m with
  | nil => rfl
  | cons c m =>
    rw [Memory.wfFrom_cons] at h ⊢
    exact ⟨hle.trans h.1, h.2⟩

theorem Memory.wfFrom_memErase {m : Memory} {lo : Nat} (a : Nat) (h : Memory.wfFrom lo m = true) :
    Memory.wfFrom lo (memErase m a) = true := by
  induction m generalizing lo with
  | nil => rfl
  | cons c m ih =>
    obtain ⟨k, v⟩ := c
    rw [Memory.wfFrom_cons] at h
    by_cases hk : k = a
    · simpa [memErase, hk] using Memory.wfFrom_mono (by omega) (ih h.2.2.2)
    · simp only [memErase, hk, if_false]
      rw [Memory.wfFrom_cons]
      exact ⟨h.1, h.2.1, h.2.2.1, ih h.2.2.2⟩

theorem Memory.wfFrom_memInsert {m : Memory} {lo a : Nat} {v : Byte} (hlo : lo ≤ a) (ha : a < 9) (hv : v ≠ 0)
    (hn : ∀ w, (a, w) ∉ m) (h : Memory.wfFrom lo m = true) : Memory.wfFrom lo (memInsert m a v) = true := by
  induction m generalizing lo with
  | nil => simpa [memInsert, Memory.wfFrom] using ⟨⟨hlo, ha⟩, hv⟩
  | cons c m ih =>
    obtain ⟨k, w⟩ := c
    rw [Memory.wfFrom_cons] at h
    have hk : k ≠ a := fun e => hn w (by simp [e])
    by_cases hlt : a < k
    · simp only [memInsert, hlt, if_true]
      rw [Memory.wfFrom_cons, Memory.wfFrom_cons]
      exact ⟨hlo, ha, hv, hlt, h.2⟩
    · simp only [memInsert, hlt, if_false]
      rw [Memory.wfFrom_cons]
      exact ⟨h.1, h.2.1, h.2.2.1, ih (by omega) (fun x hx => hn x (List.mem_cons_of_mem _ hx)) h.2.2.2⟩

/-- A write to a slot of the buffer keeps the canonical form. -/
theorem Memory.wf_memSet {m : Memory} {a : Nat} (v : Byte) (ha : a < 9) (h : m.wf = true) : (memSet m a v).wf = true := by
  unfold memSet
  split
  · exact Memory.wfFrom_memErase a h
  · next hv => exact Memory.wfFrom_memInsert (Nat.zero_le _) ha hv (notMem_memErase m a) (Memory.wfFrom_memErase a h)

/-- In canonical form a slot beyond the buffer is never listed. -/
theorem memGet_of_wfFrom {m : Memory} {lo a : Nat} (h : Memory.wfFrom lo m = true) (ha : a < lo ∨ 9 ≤ a) :
    memGet m a = 0 := by
  induction m generalizing lo with
  | nil => rfl
  | cons c m ih =>
    obtain ⟨k, v⟩ := c
    rw [Memory.wfFrom_cons] at h
    have hk : k ≠ a := by omega
    simp only [memGet, hk, if_false]
    exact ih h.2.2.2 (by omega)

/-- The canonical form is canonical: contents that read as 0x00 everywhere are the empty list. -/
theorem Memory.eq_nil_of_wf {m : Memory} (h : m.wf = true) (hz : ∀ a, a < 9 → memGet m a = 0) : m = [] := by
  cases m with
  | nil => rfl
  | cons c m =>
    obtain ⟨k, v⟩ := c
    rw [Memory.wf, Memory.wfFrom_cons] at h
    exact absurd (by simpa [memGet] using hz k h.2.1) h.2.2.1

/-- Two canonical contents that read the same everywhere are the same list. -/
theorem Memory.ext_of_wfFrom {m n : Memory} {lo : Nat} (hm : Memory.wfFrom lo m = true) (hn : Memory.wfFrom lo n = true)
    (h : ∀ a, memGet m a = memGet n a) : m = n := by
  induction m generalizing n lo with
  | nil =>
    cases n with
    | nil => rfl
    | cons c n =>
      obtain ⟨k, v⟩ := c
      rw [Memory.wfFrom_cons] at hn
      have := h k
      simp only [memGet, if_true] at this
      exact absurd this.symm hn.2.2.1
  | cons c m ih =>
    obtain ⟨k, v⟩ := c
    rw [Memory.wfFrom_cons] at hm
    cases n with
    | nil =>
      have := h k
      simp only [memGet, if_true] at this
      exact absurd this hm.2.2.1
    | cons d n =>
      obtain ⟨j, w⟩ := d
      rw [Memory.wfFrom_cons] at hn
      have hkj : k = j := by
        by_contra hne
        rcases Nat.lt_or_ge k j with hlt | hge
        · have h1 := h k
          have h2 : memGet n k = 0 := memGet_of_wfFrom hn.2.2.2 (Or.inl (by omega))
          simp only [memGet, if_true, Ne.symm hne, if_false, h2] at h1
          exact hm.2.2.1 h1
        · have h1 := h j
          have h2 : memGet m j = 0 := memGet_of_wfFrom hm.2.2.2 (Or.inl (by omega))
          simp only [memGet, if_true, hne, if_false, h2] at h1
          exact hn.2.2.1 h1.symm
      subst hkj
      have hvw : v = w := by simpa [memGet] using h k
      subst hvw
      congr 1
      refine ih hm.2.2.2 hn.2.2.2 fun a => ?_
      by_cases ha : k = a
      · subst ha
        rw [memGet_of_wfFrom hm.2.2.2 (Or.inl (by omega)), memGet_of_wfFrom hn.2.2.2 (Or.inl (by omega))]
      · simpa [memGet, ha] using h a

/-! ### Zeroing -/

/-- The contents after `for i in 0..8: MemWrite(i, 1, 0x00)`. -/
def zeroed (m : Memory) : Memory := [0, 1, 2, 3, 4, 5, 6, 7, 8].foldl (fun m i => memSet m i 0) m

theorem memGet_foldl_memSet (is : List Nat) (m : Memory) (v : Byte) (a : Nat) :
    memGet (is.foldl (fun m i => memSet m i v) m) a = if a ∈ is then v else memGet m a := by
  induction is generalizing m with
  | nil => simp
  | cons i is ih =>
    simp only [List.foldl_cons, ih, memGet_memSet, List.mem_cons]
    by_cases h2 : i = a
    · subst h2; simp
    · simp [h2, Ne.symm h2]

theorem memGet_zeroed (m : Memory) (a : Nat) : memGet (zeroed m) a = if a < 9 then 0 else memGet m a := by
  unfold zeroed
  rw [memGet_foldl_memSet]
  have : a ∈ [0, 1, 2, 3, 4, 5, 6, 7, 8] ↔ a < 9 := by simp; omega
  simp only [this]

theorem Memory.wf_foldl_memSet {is : List Nat} {m : Memory} (v : Byte) (his : ∀ i ∈ is, i < 9) (h : m.wf = true) :
    Memory.wf (is.foldl (fun m i => memSet m i v) m) = true := by
  induction is generalizing m with
  | nil => exact h
  | cons i is ih =>
    exact ih (fun j hj => his j (List.mem_cons_of_mem _ hj)) (Memory.wf_memSet v (his i (List.mem_cons_self ..)) h)

theorem zeroed_of_wf {m : Memory} (h : m.wf = true) : zeroed m = [] :=
  Memory.eq_nil_of_wf (Memory.wf_foldl_memSet 0 (by decide) h) fun a ha =>
    (memGet_zeroed m a).trans (if_pos ha)

end Sys2Proof.Machine
end

