-- ==== Sys2Proof/Laws/State.lean ====
section
/-! SUPPORT. What each named update of the state does to each field: one lemma per field per update, true by definition. -/

namespace Sys2Proof.Machine

@[simp] theorem attach_clk_enabled (s : State) : (attach .clk s).enabled = s.enabled := rfl
@[simp] theorem attach_clk_clkArmed (s : State) : (attach .clk s).clkArmed = true := rfl
@[simp] theorem attach_clk_stbArmed (s : State) : (attach .clk s).stbArmed = s.stbArmed := rfl
@[simp] theorem attach_clk_acc (s : State) : (attach .clk s).acc = s.acc := rfl
@[simp] theorem attach_clk_bitc (s : State) : (attach .clk s).bitc = s.bitc := rfl
@[simp] theorem attach_clk_frame (s : State) : (attach .clk s).frame = s.frame := rfl
@[simp] theorem attach_clk_bytec (s : State) : (attach .clk s).bytec = s.bytec := rfl
@[simp] theorem attach_clk_complete (s : State) : (attach .clk s).complete = s.complete := rfl
@[simp] theorem attach_clk_logp (s : State) : (attach .clk s).logp = s.logp := rfl
@[simp] theorem attach_clk_pending (s : State) : (attach .clk s).pending = s.pending := rfl
@[simp] theorem attach_clk_active (s : State) : (attach .clk s).active = s.active := rfl
@[simp] theorem attach_clk_ticks (s : State) : (attach .clk s).ticks = s.ticks := rfl
@[simp] theorem attach_clk_btnDrive (s : State) : (attach .clk s).btnDrive = s.btnDrive := rfl
@[simp] theorem attach_clk_refused (s : State) : (attach .clk s).refused = s.refused := rfl
@[simp] theorem attach_clk_out (s : State) : (attach .clk s).out = s.out := rfl
@[simp] theorem attach_clk_params (s : State) : (attach .clk s).params = s.params := rfl
@[simp] theorem attach_clk_draws (s : State) : (attach .clk s).draws = s.draws := rfl
@[simp] theorem attach_clk_events (s : State) : (attach .clk s).events = s.events := rfl

@[simp] theorem attach_stb_enabled (s : State) : (attach .stb s).enabled = s.enabled := rfl
@[simp] theorem attach_stb_clkArmed (s : State) : (attach .stb s).clkArmed = s.clkArmed := rfl
@[simp] theorem attach_stb_stbArmed (s : State) : (attach .stb s).stbArmed = true := rfl
@[simp] theorem attach_stb_acc (s : State) : (attach .stb s).acc = s.acc := rfl
@[simp] theorem attach_stb_bitc (s : State) : (attach .stb s).bitc = s.bitc := rfl
@[simp] theorem attach_stb_frame (s : State) : (attach .stb s).frame = s.frame := rfl
@[simp] theorem attach_stb_bytec (s : State) : (attach .stb s).bytec = s.bytec := rfl
@[simp] theorem attach_stb_complete (s : State) : (attach .stb s).complete = s.complete := rfl
@[simp] theorem attach_stb_logp (s : State) : (attach .stb s).logp = s.logp := rfl
@[simp] theorem attach_stb_pending (s : State) : (attach .stb s).pending = s.pending := rfl
@[simp] theorem attach_stb_active (s : State) : (attach .stb s).active = s.active := rfl
@[simp] theorem attach_stb_ticks (s : State) : (attach .stb s).ticks = s.ticks := rfl
@[simp] theorem attach_stb_btnDrive (s : State) : (attach .stb s).btnDrive = s.btnDrive := rfl
@[simp] theorem attach_stb_refused (s : State) : (attach .stb s).refused = s.refused := rfl
@[simp] theorem attach_stb_out (s : State) : (attach .stb s).out = s.out := rfl
@[simp] theorem attach_stb_params (s : State) : (attach .stb s).params = s.params := rfl
@[simp] theorem attach_stb_draws (s : State) : (attach .stb s).draws = s.draws := rfl
@[simp] theorem attach_stb_events (s : State) : (attach .stb s).events = s.events := rfl

@[simp] theorem detach_clk_enabled (s : State) : (detach .clk s).enabled = s.enabled := rfl
@[simp] theorem detach_clk_clkArmed (s : State) : (detach .clk s).clkArmed = false := rfl
@[simp] theorem detach_clk_stbArmed (s : State) : (detach .clk s).stbArmed = s.stbArmed := rfl
@[simp] theorem detach_clk_acc (s : State) : (detach .clk s).acc = s.acc := rfl
@[simp] theorem detach_clk_bitc (s : State) : (detach .clk s).bitc = s.bitc := rfl
@[simp] theorem detach_clk_frame (s : State) : (detach .clk s).frame = s.frame := rfl
@[simp] theorem detach_clk_bytec (s : State) : (detach .clk s).bytec = s.bytec := rfl
@[simp] theorem detach_clk_complete (s : State) : (detach .clk s).complete = s.complete := rfl
@[simp] theorem detach_clk_logp (s : State) : (detach .clk s).logp = s.logp := rfl
@[simp] theorem detach_clk_pending (s : State) : (detach .clk s).pending = s.pending := rfl
@[simp] theorem detach_clk_active (s : State) : (detach .clk s).active = s.active := rfl
@[simp] theorem detach_clk_ticks (s : State) : (detach .clk s).ticks = s.ticks := rfl
@[simp] theorem detach_clk_btnDrive (s : State) : (detach .clk s).btnDrive = s.btnDrive := rfl
@[simp] theorem detach_clk_refused (s : State) : (detach .clk s).refused = s.refused := rfl
@[simp] theorem detach_clk_out (s : State) : (detach .clk s).out = s.out := rfl
@[simp] theorem detach_clk_params (s : State) : (detach .clk s).params = s.params := rfl
@[simp] theorem detach_clk_draws (s : State) : (detach .clk s).draws = s.draws := rfl
@[simp] theorem detach_clk_events (s : State) : (detach .clk s).events = s.events := rfl

@[simp] theorem detach_stb_enabled (s : State) : (detach .stb s).enabled = s.enabled := rfl
@[simp] theorem detach_stb_clkArmed (s : State) : (detach .stb s).clkArmed = s.clkArmed := rfl
@[simp] theorem detach_stb_stbArmed (s : State) : (detach .stb s).stbArmed = false := rfl
@[simp] theorem detach_stb_acc (s : State) : (detach .stb s).acc = s.acc := rfl
@[simp] theorem detach_stb_bitc (s : State) : (detach .stb s).bitc = s.bitc := rfl
@[simp] theorem detach_stb_frame (s : State) : (detach .stb s).frame = s.frame := rfl
@[simp] theorem detach_stb_bytec (s : State) : (detach .stb s).bytec = s.bytec := rfl
@[simp] theorem detach_stb_complete (s : State) : (detach .stb s).complete = s.complete := rfl
@[simp] theorem detach_stb_logp (s : State) : (detach .stb s).logp = s.logp := rfl
@[simp] theorem detach_stb_pending (s : State) : (detach .stb s).pending = s.pending := rfl
@[simp] theorem detach_stb_active (s : State) : (detach .stb s).active = s.active := rfl
@[simp] theorem detach_stb_ticks (s : State) : (detach .stb s).ticks = s.ticks := rfl
@[simp] theorem detach_stb_btnDrive (s : State) : (detach .stb s).btnDrive = s.btnDrive := rfl
@[simp] theorem detach_stb_refused (s : State) : (detach .stb s).refused = s.refused := rfl
@[simp] theorem detach_stb_out (s : State) : (detach .stb s).out = s.out := rfl
@[simp] theorem detach_stb_params (s : State) : (detach .stb s).params = s.params := rfl
@[simp] theorem detach_stb_draws (s : State) : (detach .stb s).draws = s.draws := rfl
@[simp] theorem detach_stb_events (s : State) : (detach .stb s).events = s.events := rfl

@[simp] theorem resetBits_enabled (s : State) : (resetBits s).enabled = s.enabled := rfl
@[simp] theorem resetBits_clkArmed (s : State) : (resetBits s).clkArmed = s.clkArmed := rfl
@[simp] theorem resetBits_stbArmed (s : State) : (resetBits s).stbArmed = s.stbArmed := rfl
@[simp] theorem resetBits_acc (s : State) : (resetBits s).acc = 0 := rfl
@[simp] theorem resetBits_bitc (s : State) : (resetBits s).bitc = 0 := rfl
@[simp] theorem resetBits_frame (s : State) : (resetBits s).frame = s.frame := rfl
@[simp] theorem resetBits_bytec (s : State) : (resetBits s).bytec = s.bytec := rfl
@[simp] theorem resetBits_complete (s : State) : (resetBits s).complete = s.complete := rfl
@[simp] theorem resetBits_logp (s : State) : (resetBits s).logp = s.logp := rfl
@[simp] theorem resetBits_pending (s : State) : (resetBits s).pending = s.pending := rfl
@[simp] theorem resetBits_active (s : State) : (resetBits s).active = s.active := rfl
@[simp] theorem resetBits_ticks (s : State) : (resetBits s).ticks = s.ticks := rfl
@[simp] theorem resetBits_btnDrive (s : State) : (resetBits s).btnDrive = s.btnDrive := rfl
@[simp] theorem resetBits_refused (s : State) : (resetBits s).refused = s.refused := rfl
@[simp] theorem resetBits_out (s : State) : (resetBits s).out = s.out := rfl
@[simp] theorem resetBits_params (s : State) : (resetBits s).params = s.params := rfl
@[simp] theorem resetBits_draws (s : State) : (resetBits s).draws = s.draws := rfl
@[simp] theorem resetBits_events (s : State) : (resetBits s).events = s.events := rfl

@[simp] theorem emit_enabled (r : Record) (s : State) : (emit r s).enabled = s.enabled := rfl
@[simp] theorem emit_clkArmed (r : Record) (s : State) : (emit r s).clkArmed = s.clkArmed := rfl
@[simp] theorem emit_stbArmed (r : Record) (s : State) : (emit r s).stbArmed = s.stbArmed := rfl
@[simp] theorem emit_acc (r : Record) (s : State) : (emit r s).acc = s.acc := rfl
@[simp] theorem emit_bitc (r : Record) (s : State) : (emit r s).bitc = s.bitc := rfl
@[simp] theorem emit_frame (r : Record) (s : State) : (emit r s).frame = s.frame := rfl
@[simp] theorem emit_bytec (r : Record) (s : State) : (emit r s).bytec = s.bytec := rfl
@[simp] theorem emit_complete (r : Record) (s : State) : (emit r s).complete = s.complete := rfl
@[simp] theorem emit_logp (r : Record) (s : State) : (emit r s).logp = s.logp := rfl
@[simp] theorem emit_pending (r : Record) (s : State) : (emit r s).pending = s.pending := rfl
@[simp] theorem emit_active (r : Record) (s : State) : (emit r s).active = s.active := rfl
@[simp] theorem emit_ticks (r : Record) (s : State) : (emit r s).ticks = s.ticks := rfl
@[simp] theorem emit_btnDrive (r : Record) (s : State) : (emit r s).btnDrive = s.btnDrive := rfl
@[simp] theorem emit_refused (r : Record) (s : State) : (emit r s).refused = s.refused := rfl
@[simp] theorem emit_out (r : Record) (s : State) : (emit r s).out = s.out ++ [r] := rfl
@[simp] theorem emit_params (r : Record) (s : State) : (emit r s).params = s.params := rfl
@[simp] theorem emit_draws (r : Record) (s : State) : (emit r s).draws = s.draws := rfl
@[simp] theorem emit_events (r : Record) (s : State) : (emit r s).events = s.events := rfl

@[simp] theorem nextDraw_enabled (s : State) : (nextDraw s).enabled = s.enabled := rfl
@[simp] theorem nextDraw_clkArmed (s : State) : (nextDraw s).clkArmed = s.clkArmed := rfl
@[simp] theorem nextDraw_stbArmed (s : State) : (nextDraw s).stbArmed = s.stbArmed := rfl
@[simp] theorem nextDraw_acc (s : State) : (nextDraw s).acc = s.acc := rfl
@[simp] theorem nextDraw_bitc (s : State) : (nextDraw s).bitc = s.bitc := rfl
@[simp] theorem nextDraw_frame (s : State) : (nextDraw s).frame = s.frame := rfl
@[simp] theorem nextDraw_bytec (s : State) : (nextDraw s).bytec = s.bytec := rfl
@[simp] theorem nextDraw_complete (s : State) : (nextDraw s).complete = s.complete := rfl
@[simp] theorem nextDraw_logp (s : State) : (nextDraw s).logp = s.logp := rfl
@[simp] theorem nextDraw_pending (s : State) : (nextDraw s).pending = s.pending := rfl
@[simp] theorem nextDraw_active (s : State) : (nextDraw s).active = s.active := rfl
@[simp] theorem nextDraw_ticks (s : State) : (nextDraw s).ticks = s.ticks := rfl
@[simp] theorem nextDraw_btnDrive (s : State) : (nextDraw s).btnDrive = s.btnDrive := rfl
@[simp] theorem nextDraw_refused (s : State) : (nextDraw s).refused = s.refused := rfl
@[simp] theorem nextDraw_out (s : State) : (nextDraw s).out = s.out := rfl
@[simp] theorem nextDraw_params (s : State) : (nextDraw s).params = s.params := rfl
@[simp] theorem nextDraw_draws (s : State) : (nextDraw s).draws = s.draws + 1 := rfl
@[simp] theorem nextDraw_events (s : State) : (nextDraw s).events = s.events := rfl

@[simp] theorem markRefused_enabled (s : State) : (markRefused s).enabled = s.enabled := rfl
@[simp] theorem markRefused_clkArmed (s : State) : (markRefused s).clkArmed = s.clkArmed := rfl
@[simp] theorem markRefused_stbArmed (s : State) : (markRefused s).stbArmed = s.stbArmed := rfl
@[simp] theorem markRefused_acc (s : State) : (markRefused s).acc = s.acc := rfl
@[simp] theorem markRefused_bitc (s : State) : (markRefused s).bitc = s.bitc := rfl
@[simp] theorem markRefused_frame (s : State) : (markRefused s).frame = s.frame := rfl
@[simp] theorem markRefused_bytec (s : State) : (markRefused s).bytec = s.bytec := rfl
@[simp] theorem markRefused_complete (s : State) : (markRefused s).complete = s.complete := rfl
@[simp] theorem markRefused_logp (s : State) : (markRefused s).logp = s.logp := rfl
@[simp] theorem markRefused_pending (s : State) : (markRefused s).pending = s.pending := rfl
@[simp] theorem markRefused_active (s : State) : (markRefused s).active = s.active := rfl
@[simp] theorem markRefused_ticks (s : State) : (markRefused s).ticks = s.ticks := rfl
@[simp] theorem markRefused_btnDrive (s : State) : (markRefused s).btnDrive = s.btnDrive := rfl
@[simp] theorem markRefused_refused (s : State) : (markRefused s).refused = true := rfl
@[simp] theorem markRefused_out (s : State) : (markRefused s).out = s.out := rfl
@[simp] theorem markRefused_params (s : State) : (markRefused s).params = s.params := rfl
@[simp] theorem markRefused_draws (s : State) : (markRefused s).draws = s.draws := rfl
@[simp] theorem markRefused_events (s : State) : (markRefused s).events = s.events := rfl

@[simp] theorem raiseComplete_enabled (s : State) : (raiseComplete s).enabled = s.enabled := rfl
@[simp] theorem raiseComplete_clkArmed (s : State) : (raiseComplete s).clkArmed = s.clkArmed := rfl
@[simp] theorem raiseComplete_stbArmed (s : State) : (raiseComplete s).stbArmed = s.stbArmed := rfl
@[simp] theorem raiseComplete_acc (s : State) : (raiseComplete s).acc = s.acc := rfl
@[simp] theorem raiseComplete_bitc (s : State) : (raiseComplete s).bitc = s.bitc := rfl
@[simp] theorem raiseComplete_frame (s : State) : (raiseComplete s).frame = s.frame := rfl
@[simp] theorem raiseComplete_bytec (s : State) : (raiseComplete s).bytec = s.bytec := rfl
@[simp] theorem raiseComplete_complete (s : State) : (raiseComplete s).complete = true := rfl
@[simp] theorem raiseComplete_logp (s : State) : (raiseComplete s).logp = true := rfl
@[simp] theorem raiseComplete_pending (s : State) : (raiseComplete s).pending = s.pending := rfl
@[simp] theorem raiseComplete_active (s : State) : (raiseComplete s).active = s.active := rfl
@[simp] theorem raiseComplete_ticks (s : State) : (raiseComplete s).ticks = s.ticks := rfl
@[simp] theorem raiseComplete_btnDrive (s : State) : (raiseComplete s).btnDrive = s.btnDrive := rfl
@[simp] theorem raiseComplete_refused (s : State) : (raiseComplete s).refused = s.refused := rfl
@[simp] theorem raiseComplete_out (s : State) : (raiseComplete s).out = s.out := rfl
@[simp] theorem raiseComplete_params (s : State) : (raiseComplete s).params = s.params := rfl
@[simp] theorem raiseComplete_draws (s : State) : (raiseComplete s).draws = s.draws := rfl
@[simp] theorem raiseComplete_events (s : State) : (raiseComplete s).events = s.events := rfl

@[simp] theorem ackComplete_enabled (s : State) : (ackComplete s).enabled = s.enabled := rfl
@[simp] theorem ackComplete_clkArmed (s : State) : (ackComplete s).clkArmed = s.clkArmed := rfl
@[simp] theorem ackComplete_stbArmed (s : State) : (ackComplete s).stbArmed = s.stbArmed := rfl
@[simp] theorem ackComplete_acc (s : State) : (ackComplete s).acc = s.acc := rfl
@[simp] theorem ackComplete_bitc (s : State) : (ackComplete s).bitc = s.bitc := rfl
@[simp] theorem ackComplete_frame (s : State) : (ackComplete s).frame = s.frame := rfl
@[simp] theorem ackComplete_bytec (s : State) : (ackComplete s).bytec = s.bytec := rfl
@[simp] theorem ackComplete_complete (s : State) : (ackComplete s).complete = false := rfl
@[simp] theorem ackComplete_logp (s : State) : (ackComplete s).logp = s.logp := rfl
@[simp] theorem ackComplete_pending (s : State) : (ackComplete s).pending = s.pending := rfl
@[simp] theorem ackComplete_active (s : State) : (ackComplete s).active = s.active := rfl
@[simp] theorem ackComplete_ticks (s : State) : (ackComplete s).ticks = s.ticks := rfl
@[simp] theorem ackComplete_btnDrive (s : State) : (ackComplete s).btnDrive = s.btnDrive := rfl
@[simp] theorem ackComplete_refused (s : State) : (ackComplete s).refused = s.refused := rfl
@[simp] theorem ackComplete_out (s : State) : (ackComplete s).out = s.out := rfl
@[simp] theorem ackComplete_params (s : State) : (ackComplete s).params = s.params := rfl
@[simp] theorem ackComplete_draws (s : State) : (ackComplete s).draws = s.draws := rfl
@[simp] theorem ackComplete_events (s : State) : (ackComplete s).events = s.events := rfl

@[simp] theorem clearLog_enabled (s : State) : (clearLog s).enabled = s.enabled := rfl
@[simp] theorem clearLog_clkArmed (s : State) : (clearLog s).clkArmed = s.clkArmed := rfl
@[simp] theorem clearLog_stbArmed (s : State) : (clearLog s).stbArmed = s.stbArmed := rfl
@[simp] theorem clearLog_acc (s : State) : (clearLog s).acc = s.acc := rfl
@[simp] theorem clearLog_bitc (s : State) : (clearLog s).bitc = s.bitc := rfl
@[simp] theorem clearLog_frame (s : State) : (clearLog s).frame = s.frame := rfl
@[simp] theorem clearLog_bytec (s : State) : (clearLog s).bytec = s.bytec := rfl
@[simp] theorem clearLog_complete (s : State) : (clearLog s).complete = s.complete := rfl
@[simp] theorem clearLog_logp (s : State) : (clearLog s).logp = false := rfl
@[simp] theorem clearLog_pending (s : State) : (clearLog s).pending = s.pending := rfl
@[simp] theorem clearLog_active (s : State) : (clearLog s).active = s.active := rfl
@[simp] theorem clearLog_ticks (s : State) : (clearLog s).ticks = s.ticks := rfl
@[simp] theorem clearLog_btnDrive (s : State) : (clearLog s).btnDrive = s.btnDrive := rfl
@[simp] theorem clearLog_refused (s : State) : (clearLog s).refused = s.refused := rfl
@[simp] theorem clearLog_out (s : State) : (clearLog s).out = s.out := rfl
@[simp] theorem clearLog_params (s : State) : (clearLog s).params = s.params := rfl
@[simp] theorem clearLog_draws (s : State) : (clearLog s).draws = s.draws := rfl
@[simp] theorem clearLog_events (s : State) : (clearLog s).events = s.events := rfl

@[simp] theorem startPress_enabled (s : State) : (startPress s).enabled = s.enabled := rfl
@[simp] theorem startPress_clkArmed (s : State) : (startPress s).clkArmed = s.clkArmed := rfl
@[simp] theorem startPress_stbArmed (s : State) : (startPress s).stbArmed = s.stbArmed := rfl
@[simp] theorem startPress_acc (s : State) : (startPress s).acc = s.acc := rfl
@[simp] theorem startPress_bitc (s : State) : (startPress s).bitc = s.bitc := rfl
@[simp] theorem startPress_frame (s : State) : (startPress s).frame = s.frame := rfl
@[simp] theorem startPress_bytec (s : State) : (startPress s).bytec = s.bytec := rfl
@[simp] theorem startPress_complete (s : State) : (startPress s).complete = s.complete := rfl
@[simp] theorem startPress_logp (s : State) : (startPress s).logp = s.logp := rfl
@[simp] theorem startPress_pending (s : State) : (startPress s).pending = s.pending := rfl
@[simp] theorem startPress_active (s : State) : (startPress s).active = true := rfl
@[simp] theorem startPress_ticks (s : State) : (startPress s).ticks = 0 := rfl
@[simp] theorem startPress_btnDrive (s : State) : (startPress s).btnDrive = true := rfl
@[simp] theorem startPress_refused (s : State) : (startPress s).refused = s.refused := rfl
@[simp] theorem startPress_out (s : State) : (startPress s).out = s.out := rfl
@[simp] theorem startPress_params (s : State) : (startPress s).params = s.params := rfl
@[simp] theorem startPress_draws (s : State) : (startPress s).draws = s.draws := rfl
@[simp] theorem startPress_events (s : State) : (startPress s).events = s.events := rfl

@[simp] theorem endPress_enabled (s : State) : (endPress s).enabled = s.enabled := rfl
@[simp] theorem endPress_clkArmed (s : State) : (endPress s).clkArmed = s.clkArmed := rfl
@[simp] theorem endPress_stbArmed (s : State) : (endPress s).stbArmed = s.stbArmed := rfl
@[simp] theorem endPress_acc (s : State) : (endPress s).acc = s.acc := rfl
@[simp] theorem endPress_bitc (s : State) : (endPress s).bitc = s.bitc := rfl
@[simp] theorem endPress_frame (s : State) : (endPress s).frame = s.frame := rfl
@[simp] theorem endPress_bytec (s : State) : (endPress s).bytec = s.bytec := rfl
@[simp] theorem endPress_complete (s : State) : (endPress s).complete = s.complete := rfl
@[simp] theorem endPress_logp (s : State) : (endPress s).logp = s.logp := rfl
@[simp] theorem endPress_pending (s : State) : (endPress s).pending = 0 := rfl
@[simp] theorem endPress_active (s : State) : (endPress s).active = false := rfl
@[simp] theorem endPress_ticks (s : State) : (endPress s).ticks = s.ticks := rfl
@[simp] theorem endPress_btnDrive (s : State) : (endPress s).btnDrive = false := rfl
@[simp] theorem endPress_refused (s : State) : (endPress s).refused = s.refused := rfl
@[simp] theorem endPress_out (s : State) : (endPress s).out = s.out := rfl
@[simp] theorem endPress_params (s : State) : (endPress s).params = s.params := rfl
@[simp] theorem endPress_draws (s : State) : (endPress s).draws = s.draws := rfl
@[simp] theorem endPress_events (s : State) : (endPress s).events = s.events := rfl

@[simp] theorem countTick_enabled (s : State) : (countTick s).enabled = s.enabled := rfl
@[simp] theorem countTick_clkArmed (s : State) : (countTick s).clkArmed = s.clkArmed := rfl
@[simp] theorem countTick_stbArmed (s : State) : (countTick s).stbArmed = s.stbArmed := rfl
@[simp] theorem countTick_acc (s : State) : (countTick s).acc = s.acc := rfl
@[simp] theorem countTick_bitc (s : State) : (countTick s).bitc = s.bitc := rfl
@[simp] theorem countTick_frame (s : State) : (countTick s).frame = s.frame := rfl
@[simp] theorem countTick_bytec (s : State) : (countTick s).bytec = s.bytec := rfl
@[simp] theorem countTick_complete (s : State) : (countTick s).complete = s.complete := rfl
@[simp] theorem countTick_logp (s : State) : (countTick s).logp = s.logp := rfl
@[simp] theorem countTick_pending (s : State) : (countTick s).pending = s.pending := rfl
@[simp] theorem countTick_active (s : State) : (countTick s).active = s.active := rfl
@[simp] theorem countTick_ticks (s : State) : (countTick s).ticks = s.ticks + 1 := rfl
@[simp] theorem countTick_btnDrive (s : State) : (countTick s).btnDrive = s.btnDrive := rfl
@[simp] theorem countTick_refused (s : State) : (countTick s).refused = s.refused := rfl
@[simp] theorem countTick_out (s : State) : (countTick s).out = s.out := rfl
@[simp] theorem countTick_params (s : State) : (countTick s).params = s.params := rfl
@[simp] theorem countTick_draws (s : State) : (countTick s).draws = s.draws := rfl
@[simp] theorem countTick_events (s : State) : (countTick s).events = s.events := rfl

@[simp] theorem present_enabled (w : Byte) (s : State) : (present w s).enabled = s.enabled := rfl
@[simp] theorem present_clkArmed (w : Byte) (s : State) : (present w s).clkArmed = s.clkArmed := rfl
@[simp] theorem present_stbArmed (w : Byte) (s : State) : (present w s).stbArmed = s.stbArmed := rfl
@[simp] theorem present_acc (w : Byte) (s : State) : (present w s).acc = s.acc := rfl
@[simp] theorem present_bitc (w : Byte) (s : State) : (present w s).bitc = s.bitc := rfl
@[simp] theorem present_frame (w : Byte) (s : State) : (present w s).frame = s.frame := rfl
@[simp] theorem present_bytec (w : Byte) (s : State) : (present w s).bytec = s.bytec := rfl
@[simp] theorem present_complete (w : Byte) (s : State) : (present w s).complete = s.complete := rfl
@[simp] theorem present_logp (w : Byte) (s : State) : (present w s).logp = s.logp := rfl
@[simp] theorem present_pending (w : Byte) (s : State) : (present w s).pending = s.pending := rfl
@[simp] theorem present_active (w : Byte) (s : State) : (present w s).active = s.active := rfl
@[simp] theorem present_ticks (w : Byte) (s : State) : (present w s).ticks = s.ticks := rfl
@[simp] theorem present_btnDrive (w : Byte) (s : State) : (present w s).btnDrive = s.btnDrive := rfl
@[simp] theorem present_refused (w : Byte) (s : State) : (present w s).refused = s.refused := rfl
@[simp] theorem present_out (w : Byte) (s : State) : (present w s).out = s.out := rfl
@[simp] theorem present_params (w : Byte) (s : State) : (present w s).params = s.params := rfl
@[simp] theorem present_draws (w : Byte) (s : State) : (present w s).draws = s.draws := rfl
@[simp] theorem present_events (w : Byte) (s : State) : (present w s).events = w :: s.events := rfl

end Sys2Proof.Machine
end

