-- ==== Sys2Proof/Laws/Ops.lean ====
section
/-! SUPPORT. One law per shared operation: what it can answer. -/

namespace Sys2Proof.Machine

@[simp] theorem andThen_next (s : State) (k : State → Result) : andThen (.next s) k = k s := rfl

/-- An event in two parts answers a next state only through one of the first part. -/
theorem andThen_eq_next {r : Result} {k : State → Result} {u : State} :
    andThen r k = .next u ↔ ∃ t, r = .next t ∧ k t = .next u := by
  cases r <;> simp [andThen]

/-! ### The frame buffer -/

theorem memRead_eq {i : Nat} (h : i < 9) (s : State) : memRead i s = .ok (memGet s.frame i) := if_pos h

theorem memRead_congr {s t : State} {i : Nat} (h : memGet t.frame i = memGet s.frame i) : memRead i t = memRead i s := by
  unfold memRead; rw [h]

theorem memWriteIf_eq {i : Nat} (h : i < 9) (c : Bool) (v : Byte) (s : State) :
    memWriteIf c i v s = .next { s with frame := if c then memSet s.frame i v else s.frame } := if_pos h

theorem memWrite_eq {i : Nat} (h : i < 9) (v : Byte) (s : State) :
    memWrite i v s = .next { s with frame := memSet s.frame i v } := memWriteIf_eq h true v s

theorem memFill_eq {is : List Nat} (h : ∀ i ∈ is, i < 9) (v : Byte) (s : State) :
    memFill v is s = .next { s with frame := is.foldl (fun m i => memSet m i v) s.frame } := by
  induction is generalizing s with
  | nil => rfl
  | cons i is ih =>
    simp only [memFill, memWrite_eq (h i (List.mem_cons_self ..)), andThen_next,
      ih (fun j hj => h j (List.mem_cons_of_mem _ hj)), List.foldl_cons]

/-- Zeroing always completes, and changes the frame buffer alone. -/
theorem zeroFrame_eq (s : State) : zeroFrame s = .next { s with frame := zeroed s.frame } :=
  memFill_eq (by decide) 0 s

theorem reset_frame_wf : State.reset.frame.wf = true := rfl

/-- A write of a slot, made or not, keeps the canonical form. -/
theorem memWriteIf_wf {c : Bool} {i : Nat} {v : Byte} {s t : State} (hw : s.frame.wf = true)
    (h : memWriteIf c i v s = .next t) : t.frame.wf = true := by
  unfold memWriteIf at h
  split at h
  · next hi =>
    cases h
    cases c
    · exact hw
    · exact Memory.wf_memSet v hi hw
  · cases h

/-- Zeroing the slots keeps the canonical form. -/
theorem zeroFrame_wf {s t : State} (hw : s.frame.wf = true) (h : zeroFrame s = .next t) : t.frame.wf = true := by
  rw [zeroFrame_eq] at h
  cases h
  exact Memory.wf_foldl_memSet 0 (by decide) hw

/-- The nine bytes of the frame buffer in slot order. -/
def frameBytes (m : Memory) : Frame :=
  #v[memGet m 0, memGet m 1, memGet m 2, memGet m 3, memGet m 4, memGet m 5, memGet m 6, memGet m 7, memGet m 8]

theorem frameBytes_get (m : Memory) (i : Fin 9) : (frameBytes m)[i] = memGet m i := by
  fin_cases i <;> rfl

/-- Reading all nine slots always succeeds. -/
theorem readFrame_eq (s : State) : readFrame s = .ok (frameBytes s.frame) := rfl

theorem withFrame_eq (s : State) (k : Frame → Result) : withFrame s k = k (frameBytes s.frame) := rfl

/-! ### Records -/

/-- An informative record changes nothing but the trace and the draw count. -/
theorem emitInfo_eq (r : Record) (s : State) : ∃ o n, emitInfo r s = { s with out := o, draws := n } ∧
    (o = s.out ∨ o = s.out ++ [r]) := by
  unfold emitInfo
  split
  · exact ⟨_, _, rfl, .inr rfl⟩
  · exact ⟨_, _, rfl, .inl rfl⟩
  · refine ⟨_, _, rfl, ?_⟩
    cases Config.recordsInfo s.draws <;> simp

/-! ### Delivering an edge -/

theorem deliver_detached (h : State → Result) (s : State) : deliver false h s = .next s := rfl

theorem deliver_runs {h : State → Result} {s : State} (hl : s.params.edgeLoss = false) (he : s.enabled = true) :
    deliver true h s = h s := by
  simp [deliver, guarded, hl, he]

/-- What a delivery can do: nothing; count one draw and lose the edge; or run the handler, perhaps after a draw. -/
theorem deliver_cases (armed : Bool) (h : State → Result) (s : State) :
    (∃ n, deliver armed h s = .next { s with draws := n }) ∨
    (armed = true ∧ s.enabled = true ∧ ∃ n, deliver armed h s = h { s with draws := n }) := by
  unfold deliver guarded
  cases armed
  · exact .inl ⟨s.draws, rfl⟩
  · simp only [if_true]
    split
    · split
      · exact .inl ⟨_, rfl⟩
      · split
        · next he => exact .inr ⟨trivial, he, _, rfl⟩
        · exact .inl ⟨_, rfl⟩
    · split
      · next he => exact .inr ⟨trivial, he, s.draws, rfl⟩
      · exact .inl ⟨s.draws, rfl⟩

/-! ### The input queue -/

theorem fetch_nil {s : State} (h : s.events = []) : fetch s = none := by simp [fetch, h]

theorem fetch_cons {s : State} {w : Byte} {ws : List Byte} (h : s.events = w :: ws) :
    fetch s = some (w, { s with events := ws }) := by simp [fetch, h]

theorem fetch_present (w : Byte) (s : State) : fetch (present w s) = some (w, s) := rfl

end Sys2Proof.Machine
end

