-- ==== Sys2Proof/Laws/Events.lean ====
section
/-! SUPPORT. One law per part of an event: what each part answers, in every state. -/

namespace Sys2Proof.Machine

/-! ### The clock edge -/

theorem appendByte_room {s : State} (h : s.bytec.toNat < 9) :
    appendByte s = .next { s with frame := memSet s.frame s.bytec.toNat s.acc, bytec := s.bytec + 1 } := by
  simp only [appendByte, if_pos h, memWrite_eq h, andThen_next]

theorem appendByte_full {s : State} (h : 9 ≤ s.bytec.toNat) : appendByte s = .next s := if_neg (Nat.not_lt.mpr h)

/-- Below the eighth bit the handler inserts the bit and moves the cursor. -/
theorem clockHandler_bit {s : State} (d : BitVec 1) (h : s.bitc.toNat < 7) :
    clockHandler d s = .next { s with acc := insertBit s.acc s.bitc d, bitc := s.bitc + 1 } := by
  have h8 : ¬ s.bitc.toNat + 1 = 8 := by omega
  have hb : BitVec.ofNat 3 (s.bitc.toNat + 1) = s.bitc + 1 := by
    apply BitVec.eq_of_toNat_eq; simp [BitVec.toNat_add]
  simp only [clockHandler, countBit, if_neg h8, hb]

/-- The eighth bit appends the byte where there is room. -/
theorem clockHandler_append {s : State} (d : BitVec 1) (h : s.bitc.toNat = 7) (hr : s.bytec.toNat < 9) :
    clockHandler d s = .next { s with
      acc := 0, bitc := 0, bytec := s.bytec + 1
      frame := memSet s.frame s.bytec.toNat (insertBit s.acc s.bitc d) } := by
  simp only [clockHandler, countBit, h, if_true]
  rw [appendByte_room (by exact hr)]
  rfl

/-- The eighth bit of a byte the full frame has no room for drops it. -/
theorem clockHandler_drop {s : State} (d : BitVec 1) (h : s.bitc.toNat = 7) (hr : 9 ≤ s.bytec.toNat) :
    clockHandler d s = .next { s with acc := 0, bitc := 0 } := by
  simp only [clockHandler, countBit, h, if_true]
  rw [appendByte_full (by exact hr)]
  rfl

/-- The clock handler in every state. -/
theorem clockHandler_cases (d : BitVec 1) (s : State) :
    (s.bitc.toNat < 7 ∧ clockHandler d s = .next { s with acc := insertBit s.acc s.bitc d, bitc := s.bitc + 1 }) ∨
    (s.bitc.toNat = 7 ∧ s.bytec.toNat < 9 ∧ clockHandler d s = .next { s with
      acc := 0, bitc := 0, bytec := s.bytec + 1
      frame := memSet s.frame s.bytec.toNat (insertBit s.acc s.bitc d) }) ∨
    (s.bitc.toNat = 7 ∧ 9 ≤ s.bytec.toNat ∧ clockHandler d s = .next { s with acc := 0, bitc := 0 }) := by
  have := s.bitc.isLt
  rcases Nat.lt_or_ge s.bitc.toNat 7 with h | h
  · exact .inl ⟨h, clockHandler_bit d h⟩
  · have h7 : s.bitc.toNat = 7 := by omega
    rcases Nat.lt_or_ge s.bytec.toNat 9 with hr | hr
    · exact .inr (.inl ⟨h7, hr, clockHandler_append d h7 hr⟩)
    · exact .inr (.inr ⟨h7, hr, clockHandler_drop d h7 hr⟩)

/-! ### The strobe edge, framing part -/

/-- Whether P_PARTIAL_STORE writes the partial byte, the draw being the next one. -/
def storeChoice (s : State) : Bool :=
  match s.params.partialStore with
  | .keep => false
  | .store => true
  | .either => Config.storesPartial s.draws

/-- The draw count after that choice. -/
def storeDraws (s : State) : Nat :=
  match s.params.partialStore with
  | .keep => s.draws
  | .store => s.draws
  | .either => s.draws + 1

/-- A finalized slot keeps its contents or takes the partial byte, as P_PARTIAL_STORE says; nothing else changes but the
draw count. -/
theorem partialStore_eq {s : State} (h : s.bytec.toNat < 9) : partialStore s = .next { s with
    frame := if storeChoice s then memSet s.frame s.bytec.toNat s.acc else s.frame, draws := storeDraws s } := by
  unfold partialStore storeChoice storeDraws
  cases hp : s.params.partialStore
  · rfl
  · exact memWrite_eq h _ _
  · exact memWriteIf_eq h _ _ _

/-- The state after the finalization of a partial byte. -/
def finalized (s : State) : State :=
  if 0 < s.bitc.toNat ∧ s.bytec.toNat < 9 then
    { s with
      acc := 0, bitc := 0, bytec := s.bytec + 1, draws := storeDraws s
      frame := if storeChoice s then memSet s.frame s.bytec.toNat s.acc else s.frame }
  else s

/-- Finalization always completes. -/
theorem finalizePartial_eq (s : State) : finalizePartial s = .next (finalized s) := by
  unfold finalizePartial finalized
  by_cases h : 0 < s.bitc.toNat ∧ s.bytec.toNat < 9
  · rw [if_pos h, if_pos h, partialStore_eq h.2, andThen_next]
    rfl
  · rw [if_neg h, if_neg h]

/-- The framing part of a strobe always completes. -/
theorem framingStrobe_eq (s : State) : framingStrobe s = .next (completeFrame (finalized s)) := by
  rw [framingStrobe, finalizePartial_eq, andThen_next]

/-- A strobe that reaches its handler always completes: framing, then the button tick. -/
theorem strobeHandler_eq (s : State) : strobeHandler s = .next (buttonTick (completeFrame (finalized s))) := by
  rw [strobeHandler, framingStrobe_eq, andThen_next]

theorem finalized_none {s : State} (h : s.bitc.toNat = 0 ∨ 9 ≤ s.bytec.toNat) : finalized s = s :=
  if_neg (by omega)

theorem finalized_some {s : State} (hb : 0 < s.bitc.toNat) (hr : s.bytec.toNat < 9) : finalized s = { s with
    acc := 0, bitc := 0, bytec := s.bytec + 1, draws := storeDraws s
    frame := if storeChoice s then memSet s.frame s.bytec.toNat s.acc else s.frame } := if_pos ⟨hb, hr⟩

theorem completeFrame_full {s : State} (h : s.bytec.toNat = 9) : completeFrame s =
    { s with complete := true, logp := true, bytec := 0, clkArmed := false, stbArmed := false } := by
  simp only [completeFrame, if_pos h]; rfl

theorem completeFrame_short {s : State} (h : s.bytec.toNat ≠ 9) : completeFrame s = s := if_neg h

/-- The framing part in every state: no effect; the frame completed with its pending bits left; a partial byte finalized;
or the ninth slot finalized and the frame completed. -/
theorem framed_cases (s : State) :
    ((s.bitc.toNat = 0 ∨ 9 < s.bytec.toNat) ∧ s.bytec.toNat ≠ 9 ∧ completeFrame (finalized s) = s) ∨
    (s.bytec.toNat = 9 ∧ completeFrame (finalized s) = { s with
      complete := true, logp := true, bytec := 0, clkArmed := false, stbArmed := false }) ∨
    (0 < s.bitc.toNat ∧ s.bytec.toNat < 8 ∧ completeFrame (finalized s) = { s with
      acc := 0, bitc := 0, bytec := s.bytec + 1, draws := storeDraws s
      frame := if storeChoice s then memSet s.frame s.bytec.toNat s.acc else s.frame }) ∨
    (0 < s.bitc.toNat ∧ s.bytec.toNat = 8 ∧ completeFrame (finalized s) = { s with
      acc := 0, bitc := 0, bytec := 0, draws := storeDraws s
      frame := if storeChoice s then memSet s.frame s.bytec.toNat s.acc else s.frame
      complete := true, logp := true, clkArmed := false, stbArmed := false }) := by
  by_cases hb : 0 < s.bitc.toNat ∧ s.bytec.toNat < 9
  · have hn : (s.bytec + 1).toNat = s.bytec.toNat + 1 := by rw [BitVec.toNat_add]; simp; omega
    rw [finalized_some hb.1 hb.2]
    rcases Nat.lt_or_ge s.bytec.toNat 8 with h8 | h8
    · exact .inr (.inr (.inl ⟨hb.1, h8, completeFrame_short (by show (s.bytec + 1).toNat ≠ 9; omega)⟩))
    · exact .inr (.inr (.inr ⟨hb.1, by omega, completeFrame_full (by show (s.bytec + 1).toNat = 9; omega)⟩))
  · rw [finalized_none (by omega)]
    by_cases h9 : s.bytec.toNat = 9
    · exact .inr (.inl ⟨h9, completeFrame_full h9⟩)
    · exact .inl ⟨by omega, h9, completeFrame_short h9⟩

/-! ### The button tick -/

theorem buttonTick_idle {s : State} (ha : s.active = false) (hp : s.pending = 0) : buttonTick s = s := by
  simp [buttonTick, ha, hp]

theorem buttonTick_start {s : State} (ha : s.active = false) (hp : s.pending ≠ 0) :
    buttonTick s = { s with active := true, ticks := 0, btnDrive := true } := by
  rw [buttonTick, if_neg (by simp [ha]), if_neg hp]
  rfl

theorem buttonTick_count {s : State} (ha : s.active = true) (ht : s.ticks.toNat < 10) :
    buttonTick s = { s with ticks := s.ticks + 1 } := by
  have hn : (s.ticks + 1).toNat = s.ticks.toNat + 1 := by rw [BitVec.toNat_add]; simp; omega
  have : ¬ 10 < (countTick s).ticks.toNat := by simp only [countTick_ticks, hn]; omega
  rw [buttonTick, if_pos ha, if_neg this]
  rfl

theorem buttonTick_release {s : State} (ha : s.active = true) (ht : s.ticks.toNat = 10) :
    buttonTick s = { s with ticks := s.ticks + 1, active := false, pending := 0, btnDrive := false } := by
  have hn : (s.ticks + 1).toNat = s.ticks.toNat + 1 := by rw [BitVec.toNat_add]; simp; omega
  have : 10 < (countTick s).ticks.toNat := by simp only [countTick_ticks, hn]; omega
  rw [buttonTick, if_pos ha, if_pos this]
  rfl

/-- A button tick in every state, field by field. -/
theorem buttonTick_eq (s : State) : buttonTick s = { s with
    pending := if s.active ∧ 10 < (s.ticks + 1).toNat then 0 else s.pending
    active := if s.active then !decide (10 < (s.ticks + 1).toNat) else !decide (s.pending = 0)
    ticks := if s.active then s.ticks + 1 else if s.pending = 0 then s.ticks else 0
    btnDrive := if s.active then s.btnDrive && !decide (10 < (s.ticks + 1).toNat) else s.btnDrive || !decide (s.pending = 0) } := by
  obtain ⟨e, c, b, a, n, f, m, k, l, p, v, t, d, r, o, q, w, x⟩ := s
  cases v
  · by_cases hp : p = 0#3 <;> simp [buttonTick, startPress, hp]
  · by_cases ht : 10 < (t + 1#4).toNat
    · rw [buttonTick, if_pos rfl, if_pos (by exact ht)]
      simp [countTick, endPress, ht, -BitVec.toNat_add]
    · rw [buttonTick, if_pos rfl, if_neg (by exact ht)]
      simp [countTick, ht, -BitVec.toNat_add]

/-- A button tick writes the button state alone. -/
theorem buttonTick_frame (s : State) : ∃ p a k b,
    buttonTick s = { s with pending := p, active := a, ticks := k, btnDrive := b } :=
  ⟨_, _, _, _, buttonTick_eq s⟩

/-! ### The consumer, the gate and the requests -/

theorem logFrameIfSet_eq (bytes : Frame) (s : State) : logFrameIfSet bytes s =
    { s with out := s.out ++ (if s.logp then [.logFrame bytes] else []), logp := false } := by
  obtain ⟨e, c, b, a, n, f, m, k, l, p, v, t, d, r, o, q, w, x⟩ := s
  cases l <;> simp [logFrameIfSet, clearLog, emit]

/-- A consuming POLL, in every state with a complete frame. -/
theorem consumeFrame_eq (s : State) : consumeFrame s = .next { s with
    out := s.out ++ Record.frame (frameBytes s.frame) ::
      (if s.logp then [.logFrame (frameBytes s.frame)] else [])
    complete := false, logp := false, acc := 0, bitc := 0, clkArmed := true, stbArmed := true
    frame := zeroed s.frame } := by
  simp only [consumeFrame, withFrame_eq, logFrameIfSet_eq, zeroFrame_eq, andThen_next]
  simp [attach, resetBits, ackComplete, emit]
  rfl

theorem enableGate_off {s : State} (h : s.enabled = false) :
    enableGate s = { s with enabled := true, btnDrive := false, clkArmed := true, stbArmed := true } := by
  simp [enableGate, h, attach]

theorem enableGate_on {s : State} (h : s.enabled = true) : enableGate s = s := if_pos h

theorem disableGate_on {s : State} (h : s.enabled = true) : disableGate s = .next { s with
    enabled := false, clkArmed := false, stbArmed := false, btnDrive := false, pending := 0, active := false, ticks := 0
    complete := false, logp := false, acc := 0, bitc := 0, bytec := 0, frame := zeroed s.frame } := by
  simp only [disableGate, if_pos h, zeroFrame_eq]
  rfl

theorem disableGate_off {s : State} (h : s.enabled = false) : disableGate s = .next s := by simp [disableGate, h]

/-- A request accepted: the identifier is pending, and the informative record may be emitted. -/
theorem request_on {s : State} (id : CmdId) (h : s.enabled = true) : ∃ o n,
    request id s = { s with pending := id, out := o, draws := n } ∧ (o = s.out ∨ o = s.out ++ [.logQueued id]) := by
  obtain ⟨o, n, he, ho⟩ := emitInfo_eq (.logQueued id) { s with pending := id }
  exact ⟨o, n, by simp only [request, if_pos h, he], ho⟩

/-- A request rejected: no state changes, and the informative record may be emitted. -/
theorem request_off {s : State} (id : CmdId) (h : s.enabled = false) : ∃ o n,
    request id s = { s with out := o, draws := n } ∧ (o = s.out ∨ o = s.out ++ [.logRejected id]) := by
  obtain ⟨o, n, he, ho⟩ := emitInfo_eq (.logRejected id) s
  exact ⟨o, n, by simp [request, h, he], ho⟩

end Sys2Proof.Machine
end

