-- ==== Sys2Proof/Laws/PerInstr.lean ====
section
/-! SUPPORT. Statements about every instruction as syntax, one lemma per constructor. -/

namespace Sys2Proof.Laws.EncodedFields

/-- The word of an instruction holds its opcode above its operand nibble (30_encoding R61). -/
def Statement (i : Instr) : Prop :=
  Machine.opcField (encode i) = opcode i ∧ Machine.opdField (encode i) = operand i

/-- The two nibbles of a word put together from them. -/
theorem fields_append (a b : BitVec 4) : Machine.opcField (a ++ b) = a ∧ Machine.opdField (a ++ b) = b := by
  revert a b; decide

theorem clk (d : BitVec 1) : Statement (.clk d) := fields_append _ _
theorem stb : Statement .stb := fields_append _ _
theorem poll : Statement .poll := fields_append _ _
theorem en (b : Bool) : Statement (.en b) := fields_append _ _
theorem req (id : CmdId) : Statement (.req id) := fields_append _ _
theorem reqPower (b : Bool) : Statement (.reqPower b) := fields_append _ _
theorem reqOneCup : Statement .reqOneCup := fields_append _ _
theorem reqTwoCups : Statement .reqTwoCups := fields_append _ _
theorem reqHotWater : Statement .reqHotWater := fields_append _ _

end Sys2Proof.Laws.EncodedFields
end

