-- ==== Sys2Proof/Laws/Step.lean ====
section
/-! SUPPORT. Applying words and events, one law per case. -/

namespace Sys2Proof.Machine

/-- A clock edge that is delivered is its handler. -/
theorem exec_clk_delivered {s : State} (h : ClkDelivered s) (d : BitVec 1) : exec (.clk d) s = clockHandler d s := by
  rw [exec, execClk, h.1, deliver_runs h.2.2 h.2.1]

/-- A strobe edge that is delivered is framing, then the button tick. -/
theorem exec_stb_delivered {s : State} (h : StbDelivered s) :
    exec .stb s = .next (buttonTick (completeFrame (finalized s))) := by
  rw [exec, execStb, h.1, deliver_runs h.2.2 h.2.1, strobeHandler_eq]

theorem applyWord_ok {w : Byte} {i : Instr} (h : decode w = .ok i) (s : State) : applyWord w s = exec i s := by
  simp only [applyWord, h]

theorem applyWord_error {w : Byte} {e : DecodeError} (h : decode w = .error e) (s : State) :
    applyWord w s = .next (markRefused s) := by
  simp only [applyWord, h]

@[simp] theorem applyEvents_nil (s : State) : applyEvents [] s = .next s := rfl

@[simp] theorem applyEvents_cons (i : Instr) (is : List Instr) (s : State) :
    applyEvents (i :: is) s = andThen (exec i s) (applyEvents is) := rfl

theorem applyEvents_append (is js : List Instr) (s : State) :
    applyEvents (is ++ js) s = andThen (applyEvents is s) (applyEvents js) := by
  induction is generalizing s with
  | nil => rfl
  | cons i is ih =>
    simp only [List.cons_append, applyEvents_cons]
    cases exec i s with
    | next t => simpa using ih t
    | fault f => rfl
    | refused q => rfl

@[simp] theorem applyWords_nil (s : State) : applyWords [] s = .next s := rfl

@[simp] theorem applyWords_cons (w : Byte) (ws : List Byte) (s : State) :
    applyWords (w :: ws) s = andThen (applyWord w s) (applyWords ws) := rfl

/-- What a step can do: wait with nothing presented, or apply the oldest word presented to the rest. -/
theorem step_cases (s : State) :
    (s.events = [] ∧ step s = .next s) ∨
    (∃ w ws, s.events = w :: ws ∧ step s = applyWord w { s with events := ws }) := by
  cases h : s.events with
  | nil => exact .inl ⟨rfl, by simp only [step, stepOnce, fetch_nil h]⟩
  | cons w ws => exact .inr ⟨w, ws, rfl, by simp only [step, stepOnce, fetch_cons h]⟩

/-- What the host's placing of a word does: the next step applies that word, to the state as it was. -/
theorem step_withFetchWord (s : State) (nbits w : Nat) : step (s.withFetchWord nbits w) = applyWord (tableByte nbits w) s := by
  simp only [step, stepOnce, State.withFetchWord, fetch_present]

end Sys2Proof.Machine
end

