-- ==== Sys2Proof/Machine/Script.lean ====
section
/-! DEFINITION. The text of an event script (30_encoding R70), read into statements: one statement a line, `;` comments, blank
lines, upper-case mnemonics, decimal and hexadecimal numbers (and binary ones, log 12). -/

namespace Sys2Proof.Machine

/-- The value of a digit character. -/
def digitValue (c : Char) : Option Nat :=
  if '0'.toNat ≤ c.toNat ∧ c.toNat ≤ '9'.toNat then some (c.toNat - '0'.toNat)
  else if 'a'.toNat ≤ c.toNat ∧ c.toNat ≤ 'f'.toNat then some (c.toNat - 'a'.toNat + 10)
  else if 'A'.toNat ≤ c.toNat ∧ c.toNat ≤ 'F'.toNat then some (c.toNat - 'A'.toNat + 10)
  else none

/-- The digits of a number in a base, most significant first, after the value read so far. -/
def readDigits (base : Nat) : List Char → Nat → Except AsmError Nat
  | [], n => .ok n
  | c :: cs, n =>
    match digitValue c with
    | some d => if d < base then readDigits base cs (n * base + d) else .error .notANumber
    | none => .error .notANumber

/-- A number: `0x` hexadecimal or decimal (30_encoding R70), or `0b` binary as in 00_scope R9 and 95 P3 (log 12). -/
def readNumber : List Char → Except AsmError Nat
  | [] => .error .notANumber
  | ['0', 'x'] => .error .notANumber
  | ['0', 'b'] => .error .notANumber
  | '0' :: 'x' :: cs => readDigits 16 cs 0
  | '0' :: 'b' :: cs => readDigits 2 cs 0
  | cs => readDigits 10 cs 0

/-- A list of numbers. -/
def readNumbers : List (List Char) → Except AsmError (List Nat)
  | [] => .ok []
  | t :: ts => do
    let n ← readNumber t
    let ns ← readNumbers ts
    return n :: ns

/-- A statement without operands. -/
def noOperand (st : Stmt) : List Nat → Except AsmError Stmt
  | [] => .ok st
  | _ => .error .operandCount

/-- A statement with one operand, legal where `ok` holds. -/
def oneOperand (ok : Nat → Bool) (f : Nat → Stmt) : List Nat → Except AsmError Stmt
  | [n] => if ok n then .ok (f n) else .error .illegalOperand
  | _ => .error .operandCount

/-- `BITS n v` (30_encoding R71). -/
def bitsOperands : List Nat → Except AsmError Stmt
  | [n, v] => if 1 ≤ n ∧ n ≤ 8 ∧ v < 2 ^ n then .ok (.bits n (BitVec.ofNat 8 v)) else .error .illegalOperand
  | _ => .error .operandCount

/-- `FRAME b0 ... b8` (30_encoding R71). -/
def frameOperands : List Nat → Except AsmError Stmt
  | [b0, b1, b2, b3, b4, b5, b6, b7, b8] =>
    if [b0, b1, b2, b3, b4, b5, b6, b7, b8].all (· < 256) then
      .ok (.frame (#v[b0, b1, b2, b3, b4, b5, b6, b7, b8].map (BitVec.ofNat 8)))
    else .error .illegalOperand
  | _ => .error .operandCount

/-- A mnemonic of 30_encoding R62 or R71 with its operands. -/
def readStmt (name : List Char) (args : List Nat) : Except AsmError Stmt :=
  if name = "CLK".toList then oneOperand (· < 2) (fun n => .event (.clk (BitVec.ofNat 1 n))) args
  else if name = "STB".toList then noOperand (.event .stb) args
  else if name = "POLL".toList then noOperand (.event .poll) args
  else if name = "EN".toList then oneOperand (· < 2) (fun n => .event (.en (n == 1))) args
  else if name = "REQ".toList then
    oneOperand (fun n => decide (1 ≤ n ∧ n ≤ 6)) (fun n => .event (.req (BitVec.ofNat 3 n))) args
  else if name = "REQ_POWER".toList then oneOperand (· < 2) (fun n => .event (.reqPower (n == 1))) args
  else if name = "REQ_ONE_CUP".toList then noOperand (.event .reqOneCup) args
  else if name = "REQ_TWO_CUPS".toList then noOperand (.event .reqTwoCups) args
  else if name = "REQ_HOT_WATER".toList then noOperand (.event .reqHotWater) args
  else if name = "BYTE".toList then oneOperand (· < 256) (fun n => .byte (BitVec.ofNat 8 n)) args
  else if name = "BITS".toList then bitsOperands args
  else if name = "FRAME".toList then frameOperands args
  else if name = "STBS".toList then oneOperand (1 ≤ ·) .stbs args
  else if name = "POLLS".toList then oneOperand (1 ≤ ·) .polls args
  else .error .unknownMnemonic

/-- White space inside a line. -/
def isBlankChar (c : Char) : Bool := c == ' ' || c == '\t' || c == '\r'

/-- The words of a line, separated by white space; `cur` is the word being read, last character first. -/
def lineWords : List Char → List Char → List (List Char)
  | [], [] => []
  | [], cur => [cur.reverse]
  | c :: cs, cur =>
    if isBlankChar c then
      match cur with
      | [] => lineWords cs []
      | d :: ds => (d :: ds).reverse :: lineWords cs []
    else lineWords cs (c :: cur)

/-- One line: its statement, if it holds one (30_encoding R70: comments and blank lines hold none). -/
def readLine (cs : List Char) : Except AsmError (List Stmt) :=
  match lineWords (cs.takeWhile (· != ';')) [] with
  | [] => .ok []
  | name :: args => do
    let ns ← readNumbers args
    let st ← readStmt name ns
    return [st]

/-- The lines of a script, in order. -/
def readLines : List (List Char) → Except AsmError (List Stmt)
  | [] => .ok []
  | l :: ls => do
    let st ← readLine l
    let rest ← readLines ls
    return st ++ rest

/-- The event words of a script's text. -/
def assembleText (text : List Char) : Except AsmError (List Byte) := do
  let sts ← readLines (text.splitOn '\n')
  assemble sts

end Sys2Proof.Machine
end

