-- ==== Sys2Proof/Tests/Slice0.lean ====
section
/-! SUPPORT. The model's own tests, their expected results taken from 95_test_vectors and 30_encoding, and one witness for the
hypotheses of each statement in Certificates/Slice0/Obligations.lean. -/

namespace Sys2Proof.Tests

open Sys2Proof.Machine

/-! ### States to test on -/

/-- `E` of 95 section 0, with P_PARTIAL_STORE = keep. -/
def stateE : State :=
  { State.reset with
    enabled := true, clkArmed := true, stbArmed := true
    params := { partialStore := .keep, edgeLoss := false, infoLog := .emit } }

/-- `E` with P_PARTIAL_STORE = store. -/
def stateStore : State := { stateE with params := { stateE.params with partialStore := .store } }

/-- `E` with P_PARTIAL_STORE = either. -/
def stateEither : State := { stateE with params := { stateE.params with partialStore := .either } }

/-- `E` with P_EDGE_LOSS = true. -/
def stateLoss : State := { stateE with params := { stateE.params with edgeLoss := true } }

/-- `E` with a press at tick `k`. -/
def statePress (k : BitVec 4) : State := { stateE with pending := 3, active := true, ticks := k, btnDrive := true }

/-- `E` with `n` slots filled, `b` bits of 1 in the accumulator. -/
def stateFilled (n : BitVec 4) (b : BitVec 3) (acc : Byte) : State := { stateE with bytec := n, bitc := b, acc := acc }

/-- The start of V-POLL-3. -/
def stateComplete : State :=
  { stateE with
    clkArmed := false, stbArmed := false, complete := true, logp := true, acc := 0x07, bitc := 3
    frame := [(0, 0x11), (1, 0x22), (2, 0x33), (3, 0x44), (4, 0x55), (5, 0x66), (6, 0x77), (7, 0x88), (8, 0x99)] }

/-- Its nine bytes. -/
def bytesComplete : Frame := #v[0x11, 0x22, 0x33, 0x44, 0x55, 0x66, 0x77, 0x88, 0x99]

/-- The next state, if there is one. -/
def after : Result → Option State
  | .next s => some s
  | .fault _ => none
  | .refused _ => none

/-- The event a word spells, if it spells one. -/
def spells (w : Byte) : Option Instr :=
  match decode w with
  | .ok i => some i
  | .error _ => none

/-- A slot's byte, if there is such a slot. -/
def slot (i : Nat) (s : State) : Option Byte :=
  match memRead i s with
  | .ok v => some v
  | .error _ => none

/-! ### Well-formedness (30_encoding R63, R66) -/

theorem test_wf_refuses_req_0_and_7 : Instr.wf (.req 0) = false ∧ Instr.wf (.req 7) = false := by decide
theorem test_wf_accepts_req_1_to_6 : ∀ id : CmdId, 1 ≤ id.toNat → id.toNat ≤ 6 → Instr.wf (.req id) = true := by decide
theorem test_wf_accepts_the_rest :
    ∀ i ∈ ([.clk 0, .clk 1, .stb, .poll, .en false, .en true, .reqPower false, .reqPower true, .reqOneCup, .reqTwoCups,
      .reqHotWater] : List Instr), i.wf = true := by decide
theorem test_stmtWf_refuses_out_of_range_operands :
    stmtWf (.bits 0 0) = false ∧ stmtWf (.bits 9 0) = false ∧ stmtWf (.bits 3 8) = false ∧ stmtWf (.stbs 0) = false ∧
    stmtWf (.polls 0) = false ∧ stmtWf (.event (.req 7)) = false := by decide

/-! ### Decoding: words written out bit by bit (30_encoding R62, R63) -/

theorem test_decode_clk : decode 0b00010000 = .ok (.clk 0) ∧ decode 0b00010001 = .ok (.clk 1) := by decide
theorem test_decode_stb : decode 0b00100000 = .ok .stb := by decide
theorem test_decode_poll : decode 0b00110000 = .ok .poll := by decide
theorem test_decode_en : decode 0b01000000 = .ok (.en false) ∧ decode 0b01000001 = .ok (.en true) := by decide
theorem test_decode_req :
    decode 0b01010001 = .ok (.req 1) ∧ decode 0b01010010 = .ok (.req 2) ∧ decode 0b01010100 = .ok (.req 4) ∧
    decode 0b01010110 = .ok (.req 6) := by decide
theorem test_decode_req_power :
    decode 0b01100000 = .ok (.reqPower false) ∧ decode 0b01100001 = .ok (.reqPower true) := by decide
theorem test_decode_req_one_cup : decode 0b01110000 = .ok .reqOneCup := by decide
theorem test_decode_req_two_cups : decode 0b10000000 = .ok .reqTwoCups := by decide
theorem test_decode_req_hot_water : decode 0b10010000 = .ok .reqHotWater := by decide

/-- V-DEC-1 to V-DEC-11 and V-REQ-6, V-REQ-7. -/
theorem test_decode_refuses :
    ∀ w ∈ ([0x00, 0x12, 0x1F, 0x21, 0x31, 0x42, 0x58, 0x5E, 0x62, 0x71, 0x88, 0x9F, 0xA0, 0xB5, 0xFF, 0x50, 0x57] : List Byte),
      spells w = none := by decide

/-- The three reasons (R64, R65, R66). -/
theorem test_decode_names_the_reason :
    decode 0xA0 = .error (.reservedOpcode 0xA0) ∧ decode 0x58 = .error (.reservedOperandBit 0x58) ∧
    decode 0x57 = .error (.reservedId 0x57) := by decide

theorem test_decodeTableWord : decodeTableWord 8 0x11 = some (.clk 1) ∧ decodeTableWord 8 0x50 = none := by decide

/-! ### CLK -/

/-- V-CLK-3. -/
theorem test_clk_completes_a_byte :
    after (exec (.clk 1) { stateFilled 2 7 0x0D with frame := [] }) =
      some { stateE with bytec := 3, frame := [(2, 0x8D)] } := by decide

/-- V-CLK-5. -/
theorem test_clk_drops_the_tenth_byte :
    after (exec (.clk 1) { stateComplete with
      clkArmed := true, stbArmed := true, complete := false, logp := false, bytec := 9, acc := 0x55, bitc := 7 }) =
      some { stateE with bytec := 9, frame := stateComplete.frame } := by decide

/-! ### STB -/

/-- V-STB-5, both values of P_PARTIAL_STORE. -/
theorem test_stb_completes_from_a_partial_ninth_slot :
    after (exec .stb (stateFilled 8 2 0x03)) =
      some { stateE with clkArmed := false, stbArmed := false, complete := true, logp := true } ∧
    after (exec .stb { stateStore with bytec := 8, bitc := 2, acc := 0x03 }) =
      some { stateStore with clkArmed := false, stbArmed := false, complete := true, logp := true, frame := [(8, 0x03)] } := by
  decide

/-- V-BTN-3 and V-BTN-4. -/
theorem test_stb_ends_the_press_above_ten :
    after (exec .stb (statePress 9)) = some (statePress 10) ∧
    after (exec .stb (statePress 10)) = some { stateE with ticks := 11 } := by decide

/-! ### POLL -/

/-- V-POLL-3. -/
theorem test_poll_delivers :
    after (exec .poll stateComplete) = some { stateE with out := [.frame bytesComplete, .logFrame bytesComplete] } := by decide

/-- V-POLL-2. -/
theorem test_poll_without_a_frame :
    after (exec .poll { stateE with bytec := 4, frame := [(0, 0x11)] }) =
      some { stateE with bytec := 4, frame := [(0, 0x11)] } := by decide

/-! ### EN -/

/-- V-EN-1. -/
theorem test_en_1_from_reset :
    after (exec (.en true) State.reset) = some { State.reset with enabled := true, clkArmed := true, stbArmed := true } := by
  decide

/-- V-EN-4. -/
theorem test_en_0_resets :
    after (exec (.en false) { statePress 6 with acc := 0x03, bitc := 2, bytec := 4, frame := [(0, 0x11), (3, 0x44)] }) =
      some { State.reset with params := stateE.params } := by decide

/-! ### Requests -/

/-- V-REQ-4. -/
theorem test_req_overwrites_mid_press :
    after (exec (.req 5) (statePress 4)) = some { statePress 4 with pending := 5, out := [.logQueued 5] } := by decide

/-- V-REQ-1. -/
theorem test_req_while_disabled :
    after (exec (.req 4) State.reset) = some { State.reset with out := [.logRejected 4] } := by decide

/-- V-NAM-1, V-NAM-2. -/
theorem test_req_power :
    (after (exec (.reqPower false) stateE)).map State.pending = some 1 ∧
    (after (exec (.reqPower true) stateE)).map State.pending = some 1 := by decide

/-- V-NAM-3. -/
theorem test_req_one_cup : (after (exec .reqOneCup stateE)).map State.pending = some 4 := by decide

/-- V-NAM-4, V-NAM-6. -/
theorem test_req_two_cups :
    (after (exec .reqTwoCups stateE)).map State.pending = some 5 ∧
    (after (exec .reqTwoCups State.reset)).map State.pending = some 0 := by decide

/-- V-NAM-5, V-NAM-7. -/
theorem test_req_hot_water :
    (after (exec .reqHotWater stateE)).map State.pending = some 3 ∧
    (after (exec .reqHotWater { stateE with pending := 4 })).map State.pending = some 3 := by decide

/-! ### Steps and scripts -/

/-- V-DEC-13: a refused word sets the mark and the run goes on. -/
theorem test_run_goes_on_after_a_refused_word :
    after (applyWords [0x57, 0x41, 0x52] stateE) = some { stateE with refused := true, pending := 2, out := [.logQueued 2] } := by
  decide

/-- The host's word is the very next event. -/
theorem test_withFetchWord :
    after (step (State.reset.withFetchWord 8 0x41)) =
      some { State.reset with enabled := true, clkArmed := true, stbArmed := true } := by decide

/-- 30_encoding R72. -/
theorem test_assemble_byte : assembleStmt (.byte 0x8D) = .ok [0x11, 0x10, 0x11, 0x11, 0x10, 0x10, 0x10, 0x11] := by decide

/-- The first lines of 95 P3, with a comment and a blank line. -/
theorem test_assemble_text :
    assembleText ['E', 'N', ' ', '1', ' ', ';', ' ', '4', '1', '\n', '\n', 'B', 'I', 'T', 'S', ' ', '3', ' ', '0', 'b', '1', '0',
      '1', '\n', 'S', 'T', 'B'] = .ok [0x41, 0x11, 0x10, 0x11, 0x20] := by decide

/-! ### Witnesses: each statement's hypotheses are met by a concrete state and operands -/

/-- The invariants hold of `E`. -/
theorem witness_inv_enabled : Inv stateE :=
  ⟨by decide, by decide, by decide, by decide, by decide, by decide, by decide⟩

/-- The invariants hold of a complete frame with bits pending. -/
theorem witness_inv_complete : Inv stateComplete :=
  ⟨by decide, by decide, by decide, by decide, by decide, by decide, by decide⟩

/-- The invariants hold at the last tick of a press. -/
theorem witness_inv_press : Inv (statePress 10) :=
  ⟨by decide, by decide, by decide, by decide, by decide, by decide, by decide⟩

theorem witness_EncodeThenDecode : Instr.wf (.req 1) = true ∧ Instr.wf (.req 6) = true ∧ Instr.wf (.clk 1) = true := by decide
theorem witness_DecodeThenEncode : decode 0x56 = .ok (.req 6) ∧ decode 0x51 = .ok (.req 1) := by decide
theorem witness_ReservedOpcodeIsRefused :
    (0x0F : Byte).extractLsb' 4 4 = 0 ∧ 0xA ≤ ((0xA0 : Byte).extractLsb' 4 4).toNat ∧
    0xA ≤ ((0xFF : Byte).extractLsb' 4 4).toNat := by decide
theorem witness_ReservedOperandBitIsRefused :
    ((0x12 : Byte).extractLsb' 4 4 = 1 ∧ (0x12 : Byte).extractLsb' 1 3 ≠ 0) ∧
    ((0x58 : Byte).extractLsb' 4 4 = 5 ∧ (0x58 : Byte).extractLsb' 3 1 ≠ 0) ∧
    ((0x9F : Byte).extractLsb' 4 4 = 9 ∧ (0x9F : Byte).extractLsb' 0 4 ≠ 0) := by decide
theorem witness_ReqZeroAndSevenAreRefused :
    ((0x50 : Byte).extractLsb' 4 4 = 5 ∧ (0x50 : Byte).extractLsb' 3 1 = 0 ∧ (0x50 : Byte).extractLsb' 0 3 = 0) ∧
    ((0x57 : Byte).extractLsb' 4 4 = 5 ∧ (0x57 : Byte).extractLsb' 3 1 = 0 ∧ (0x57 : Byte).extractLsb' 0 3 = 7) := by decide

theorem witness_StepRunsTheDecodedEvent :
    ({ stateE with events := [0x11, 0xFF] } : State).events = 0x11 :: [0xFF] ∧ decode 0x11 = .ok (.clk 1) ∧
    decode 0xFF = .error (.reservedOpcode 0xFF) := by decide
theorem witness_StepWaitsWithoutAnEvent : State.reset.events = [] := by decide
theorem witness_RunEndsWellIffNoWordRefused :
    (∃ t, applyWords [0x41, 0x30] State.reset = .next t ∧ endsWell t = true) ∧
    (∃ t, applyWords [0x41, 0x57] State.reset = .next t ∧ endsWell t = false) := ⟨⟨_, rfl, rfl⟩, ⟨_, rfl, rfl⟩⟩
theorem witness_RefusedMarkIsSticky :
    ∃ t, step { stateE with refused := true, events := [0x40] } = .next t ∧
      ({ stateE with refused := true, events := [0x40] } : State).refused = true := ⟨_, rfl, rfl⟩
theorem witness_OutputTraceOnlyGrows : ∃ t, step { stateComplete with events := [0x30] } = .next t := ⟨_, rfl⟩
theorem witness_StepKeepsTheInvariants :
    ∃ t, Inv { stateComplete with events := [0x30] } ∧ step { stateComplete with events := [0x30] } = .next t :=
  ⟨_, ⟨by decide, by decide, by decide, by decide, by decide, by decide, by decide⟩, rfl⟩
theorem witness_StepKeepsTheFrameCanonical :
    ∃ t, ({ stateFilled 8 7 0x55 with frame := [(0, 1)], events := [0x11] } : State).frame.wf = true ∧
      step { stateFilled 8 7 0x55 with frame := [(0, 1)], events := [0x11] } = .next t := ⟨_, by decide, rfl⟩

/-- Each clause at a boundary: slot 8 is the last, slot 9 is none. -/
theorem witness_FrameSlotsReadBackWrites :
    ((after (memWrite 8 0x5A stateE)).bind (slot 8)) = some 0x5A ∧ after (memWrite 9 0x5A stateE) = none ∧ slot 9 stateE = none := by
  decide

theorem witness_EdgesWhileDetachedAreLost : stateComplete.clkArmed = false ∧ stateComplete.stbArmed = false := by decide
theorem witness_HandlersReturnWhileDisabled :
    ({ stateE with enabled := false } : State).enabled = false ∧ Inv stateE ∧ stateE.clkArmed = true ∧ stateE.stbArmed = true :=
  ⟨by decide, witness_inv_enabled, by decide, by decide⟩
theorem witness_EdgeLossEitherLosesOrDelivers :
    contextOf (.clk 1) = .interrupt ∧ contextOf .stb = .interrupt ∧ stateLoss.params.edgeLoss = true := by decide

/-- The first bit, the last below the eighth, and the eighth with the last slot free. -/
theorem witness_ClkInsertsTheBit :
    ClkDelivered stateE ∧ stateE.bitc.toNat < 7 ∧ stateE.acc.toNat < 2 ^ stateE.bitc.toNat ∧
    ClkDelivered (stateFilled 8 6 0x3F) ∧ (stateFilled 8 6 0x3F).bitc.toNat < 7 ∧
    ClkDelivered (stateFilled 8 7 0x7F) ∧ (stateFilled 8 7 0x7F).bitc.toNat = 7 ∧ (stateFilled 8 7 0x7F).bytec.toNat < 9 ∧
    (stateFilled 8 7 0x7F).acc.toNat < 2 ^ (stateFilled 8 7 0x7F).bitc.toNat := by decide
theorem witness_ClkCompletesTheByte :
    ClkDelivered (stateFilled 8 7 0x7F) ∧ (stateFilled 8 7 0x7F).bitc.toNat = 7 ∧ (stateFilled 8 7 0x7F).bytec.toNat < 9 ∧
    ClkDelivered (stateFilled 9 7 0x7F) ∧ (stateFilled 9 7 0x7F).bitc.toNat = 7 ∧ 9 ≤ (stateFilled 9 7 0x7F).bytec.toNat := by
  decide
theorem witness_EightClocksAssembleAByte :
    ClkDelivered (stateFilled 8 0 0) ∧ (stateFilled 8 0 0).bitc = 0 ∧ (stateFilled 8 0 0).acc = 0 ∧
    (stateFilled 8 0 0).bytec.toNat < 9 := by decide
theorem witness_ClkFrame :
    (∃ t, exec (.clk 1) (stateFilled 8 7 0x7F) = .next t ∧ slot 8 t = some 0xFF) ∧
    (∃ t, exec (.clk 1) (stateFilled 9 7 0x7F) = .next t ∧ 9 ≤ (stateFilled 9 7 0x7F).bytec.toNat) ∧
    (∃ t, exec (.clk 1) (stateFilled 0 6 0x3F) = .next t ∧ (stateFilled 0 6 0x3F).bitc.toNat ≠ 7) :=
  ⟨⟨_, rfl, by decide⟩, ⟨_, rfl, by decide⟩, ⟨_, rfl, by decide⟩⟩

/-- A partial byte in a middle slot and in the last, under each value of P_PARTIAL_STORE. -/
theorem witness_StbFinalizesThePartialByte :
    StbDelivered (stateFilled 7 1 0x01) ∧ 0 < (stateFilled 7 1 0x01).bitc.toNat ∧ (stateFilled 7 1 0x01).bytec.toNat < 8 ∧
    StbDelivered (stateFilled 8 7 0x7F) ∧ 0 < (stateFilled 8 7 0x7F).bitc.toNat ∧ (stateFilled 8 7 0x7F).bytec.toNat < 9 ∧
    (stateFilled 8 7 0x7F).bytec.toNat = 8 ∧ stateE.params.partialStore = .keep ∧ stateStore.params.partialStore = .store ∧ StbDelivered stateStore ∧
    StbDelivered stateEither := by decide
theorem witness_StbCompletesTheFullFrame :
    StbDelivered (stateFilled 9 0 0) ∧ FillsFrame (stateFilled 9 0 0) ∧
    StbDelivered (stateFilled 8 1 1) ∧ FillsFrame (stateFilled 8 1 1) := by decide
theorem witness_StbWithoutPendingBitsKeepsFraming :
    StbDelivered (stateFilled 8 0 0) ∧ (stateFilled 8 0 0).bitc = 0 ∧ (stateFilled 8 0 0).bytec.toNat < 9 := by decide
theorem witness_StbFullFrameKeepsPendingBits :
    StbDelivered (stateFilled 9 3 7) ∧ 0 < (stateFilled 9 3 7).bitc.toNat ∧ (stateFilled 9 3 7).bytec.toNat = 9 ∧
    ∀ i ∈ ([.clk 1, .stb, .req 2, .en true] : List Instr), i ≠ .poll ∧ i ≠ .en false := by decide
theorem witness_StbStartsThePress :
    StbDelivered stateE ∧ stateE.active = false ∧ stateE.pending = 0 ∧
    StbDelivered { stateE with pending := 6 } ∧ ({ stateE with pending := 6 } : State).active = false ∧
    ({ stateE with pending := 6 } : State).pending ≠ 0 := by decide
theorem witness_StbCountsAndEndsThePress :
    StbDelivered (statePress 9) ∧ (statePress 9).active = true ∧ (statePress 9).ticks.toNat + 1 ≤ 10 ∧
    StbDelivered (statePress 10) ∧ (statePress 10).active = true ∧ 10 < (statePress 10).ticks.toNat + 1 ∧
    (statePress 10).ticks.toNat ≤ 10 := by decide
theorem witness_StbFrame :
    (∃ t, exec .stb (stateFilled 8 0 0) = .next t ∧ ¬ FillsFrame (stateFilled 8 0 0) ∧ (stateFilled 8 0 0).bitc.toNat = 0) ∧
    (∃ t, exec .stb (stateFilled 9 3 7) = .next t ∧ 9 ≤ (stateFilled 9 3 7).bytec.toNat) ∧
    (∃ t, exec .stb { stateStore with bytec := 3, bitc := 3, acc := 5 } = .next t ∧ slot 3 t = some 5) :=
  ⟨⟨_, rfl, by decide⟩, ⟨_, rfl, by decide⟩, ⟨_, rfl, by decide⟩⟩
theorem witness_PressLastsTenSubsequentTicks :
    StbDelivered { stateE with pending := 1 } ∧ ({ stateE with pending := 1 } : State).bitc = 0 ∧
    ({ stateE with pending := 1 } : State).bytec.toNat < 9 ∧ ({ stateE with pending := 1 } : State).active = false ∧
    ({ stateE with pending := 1 } : State).pending ≠ 0 := by decide
theorem witness_StbUsesTheIdentifierOnlyAsPresence :
    (1 : CmdId) ≠ 0 ∧ (6 : CmdId) ≠ 0 ∧ ∃ t, exec .stb { stateE with pending := 1 } = .next t := ⟨by decide, by decide, ⟨_, rfl⟩⟩
theorem witness_FrameCompletesAtAStrobeWithNineSlots :
    (stateFilled 8 7 0).clkArmed = true ∧ StbDelivered (stateFilled 8 7 0) ∧ (stateFilled 8 7 0).bytec.toNat ≤ 9 ∧
    (stateFilled 8 7 0).complete = false ∧ (∀ i ∈ ([.clk 1, .stb] : List Instr), contextOf i = .interrupt) ∧
    ∃ t, applyEvents [.clk 1, .stb] (stateFilled 8 7 0) = .next t ∧ t.complete = true :=
  ⟨by decide, by decide, by decide, by decide, by decide, ⟨_, rfl, rfl⟩⟩

theorem witness_PollWithoutAFrameDoesNothing :
    stateE.complete = false ∧ ({ stateComplete with enabled := false } : State).enabled = false := by decide
theorem witness_PollDeliversTheFrame :
    stateComplete.enabled = true ∧ stateComplete.complete = true ∧ stateComplete.logp = true ∧
    ({ stateComplete with logp := false } : State).complete = true := by decide
theorem witness_SecondPollDoesNothing : ∃ t, exec .poll stateComplete = .next t ∧ t.out ≠ [] := ⟨_, rfl, by decide⟩
theorem witness_PollFrame :
    (∃ t, exec .poll stateComplete = .next t ∧ slot 0 t = some 0) ∧
    (∃ t, exec .poll stateE = .next t ∧ stateE.complete = false) := ⟨⟨_, rfl, by decide⟩, ⟨_, rfl, by decide⟩⟩
theorem witness_CompletedFrameIsDeliveredUntouched :
    Inv stateComplete ∧ stateComplete.complete = true ∧
    (∀ i ∈ ([.clk 1, .stb, .req 2, .en true] : List Instr), i ≠ .poll ∧ i ≠ .en false) ∧
    readFrame stateComplete = .ok bytesComplete := ⟨witness_inv_complete, by decide, by decide, by decide⟩
theorem witness_NineBytesAreDeliveredInOrder :
    ClkDelivered stateE ∧ stateE.stbArmed = true ∧ stateE.bitc = 0 ∧ stateE.acc = 0 ∧ stateE.bytec = 0 := by decide

theorem witness_EnableAttachesBothSources : State.reset.enabled = false ∧ stateE.enabled = true := by decide
theorem witness_DisableResetsEveryTransientField : stateComplete.enabled = true ∧ State.reset.enabled = false := by decide
theorem witness_DisableThenEnableIsFreshSetup : stateComplete.enabled = true ∧ stateComplete.frame.wf = true := by decide
theorem witness_EnFrame :
    (∃ t, exec (.en true) State.reset = .next t ∧ t.enabled = true) ∧
    (∃ t, exec (.en false) stateComplete = .next t ∧ t.enabled = false) ∧
    (∃ t, exec (.en false) State.reset = .next t ∧ State.reset.enabled = false) :=
  ⟨⟨_, rfl, by decide⟩, ⟨_, rfl, by decide⟩, ⟨_, rfl, by decide⟩⟩
theorem witness_DisabledBlockWaitsForEnable :
    State.reset.enabled = false ∧ State.reset.clkArmed = false ∧ State.reset.stbArmed = false ∧
    Instr.en true ∉ ([.clk 1, .stb, .poll, .req 4, .en false] : List Instr) := by decide

theorem witness_RequestSetsPending :
    stateE.enabled = true ∧ State.reset.enabled = false ∧ 1 ≤ (1 : CmdId).toNat ∧ (1 : CmdId).toNat ≤ 6 ∧ 1 ≤ (6 : CmdId).toNat ∧ (6 : CmdId).toNat ≤ 6 := by
  decide
theorem witness_NamedRequestsSetTheirIdentifier : stateE.enabled = true ∧ State.reset.enabled = false := by decide
theorem witness_RequestsWhileDisabledAreRejected :
    State.reset.enabled = false ∧
    ∀ i ∈ ([.req 1, .req 6, .reqPower true, .reqOneCup, .reqTwoCups, .reqHotWater] : List Instr),
      i.wf = true ∧ partyOf i = .commandSurface := by decide
theorem witness_IllFormedRequestIsRefused : (0 : CmdId) = 0 ∧ (7 : CmdId) = 7 := by decide
theorem witness_RequestFrame :
    (∃ t, exec (.req 6) stateE = .next t ∧ partyOf (.req 6) = .commandSurface ∧ Instr.wf (.req 6) = true) ∧
    (∃ t, exec .reqOneCup State.reset = .next t ∧ partyOf .reqOneCup = .commandSurface) :=
  ⟨⟨_, rfl, by decide⟩, ⟨_, rfl, by decide⟩⟩
theorem witness_RequestDuringAPressIsNeverPressed :
    StbDelivered (statePress 10) ∧ (statePress 10).bitc = 0 ∧ (statePress 10).bytec.toNat < 9 ∧ (statePress 10).active = true ∧
    (statePress 10).ticks.toNat ≤ 10 ∧ 1 ≤ (6 : CmdId).toNat ∧ (6 : CmdId).toNat ≤ 6 := by decide

theorem witness_OnlyEnWritesEnabled : ∃ t, exec (.en true) State.reset = .next t ∧ t.enabled ≠ State.reset.enabled :=
  ⟨_, rfl, by decide⟩
theorem witness_OnlyTheseEventsArmAndDisarm :
    (∃ t, exec .poll stateComplete = .next t ∧ stateComplete.clkArmed = false ∧ t.clkArmed = true) ∧
    (∃ t, exec .stb (stateFilled 9 0 0) = .next t ∧ (stateFilled 9 0 0).stbArmed = true ∧ t.stbArmed = false) :=
  ⟨⟨_, rfl, by decide⟩, ⟨_, rfl, by decide⟩⟩
theorem witness_OnlyTheseEventsChangeCompleteness :
    (∃ t, exec .stb (stateFilled 8 1 1) = .next t ∧ (stateFilled 8 1 1).complete = false ∧ t.complete = true) ∧
    (∃ t, exec .poll stateComplete = .next t ∧ stateComplete.complete = true ∧ t.complete = false) :=
  ⟨⟨_, rfl, by decide⟩, ⟨_, rfl, by decide⟩⟩
theorem witness_OnlyTheseEventsEndAPress :
    (∃ t, exec .stb (statePress 10) = .next t ∧ (statePress 10).active = true ∧ (statePress 10).ticks.toNat ≤ 10 ∧
      (statePress 10).enabled = true ∧ t.active = false) ∧
    (∃ t, exec (.en false) (statePress 0) = .next t ∧ t.btnDrive ≠ (statePress 0).btnDrive) :=
  ⟨⟨_, rfl, by decide⟩, ⟨_, rfl, by decide⟩⟩
theorem witness_ContextsWriteOnlyTheirState :
    (∃ t, exec (.clk 1) stateE = .next t ∧ contextOf (.clk 1) = .interrupt) ∧
    (∃ t, exec .poll stateComplete = .next t ∧ partyOf .poll = .pollingLoop) ∧
    (∃ t, exec (.req 2) stateE = .next t ∧ partyOf (.req 2) = .commandSurface ∧ Instr.wf (.req 2) = true) ∧
    (∃ t, exec (.en false) stateComplete = .next t ∧ partyOf (.en false) = .lifecycle) :=
  ⟨⟨_, rfl, by decide⟩, ⟨_, rfl, by decide⟩, ⟨_, rfl, by decide⟩, ⟨_, rfl, by decide⟩⟩

theorem witness_AssembledWordsDecodeToTheExpansion :
    stmtWf (.bits 1 1) = true ∧ stmtWf (.bits 8 0xFF) = true ∧ stmtWf (.stbs 1) = true ∧ stmtWf (.event (.req 6)) = true := by
  decide
theorem witness_PseudoInstructionWords :
    1 ≤ 1 ∧ 1 ≤ 8 ∧ (0x01 : Byte).toNat < 2 ^ 1 ∧ (0xFF : Byte).toNat < 2 ^ 8 := by decide

end Sys2Proof.Tests
end

/-! THEOREMS. The step and the queue of words presented (00_scope section 4). -/

namespace Sys2Proof.Machine

/-- With a word presented, a step applies the oldest one to the state without it. -/
theorem step_of_events_cons {s : State} {w : Byte} {ws : List Byte} (h : s.events = w :: ws) :
    step s = applyWord w { s with events := ws } := by
  simp only [step, stepOnce, fetch_cons h]

/-- Settles O8: the step applies the head word, and a word's application is its decoded event or the refused mark. -/
theorem stepRunsTheDecodedEvent : Obligations.StepRunsTheDecodedEvent := by
  intro s w ws hq
  constructor
  · intro i hdec
    rw [step_of_events_cons hq, applyWord_ok hdec]
  · intro e hdec
    rw [step_of_events_cons hq, applyWord_error hdec, markRefused]

end Sys2Proof.Machine

/-! THEOREMS. The frame buffer and its invariants (20_memory section 1, 10_state section 2): slot access, what an
event does to the state, and the predicates every step keeps. -/

namespace Sys2Proof.Machine

/-! ### Slot access -/

theorem memWrite_outside {i : Nat} (h : 9 ≤ i) (v : Byte) (s : State) : memWrite i v s = .fault (.noSuchSlot i) :=
  if_neg (Nat.not_lt.mpr h)

theorem memRead_outside {i : Nat} (h : 9 ≤ i) (s : State) : memRead i s = .error (.noSuchSlot i) :=
  if_neg (Nat.not_lt.mpr h)

/-- Settles O19: the write is `memSet` on the contents, whose read-after-write law gives both reads. -/
theorem frameSlotsReadBackWrites : Obligations.FrameSlotsReadBackWrites := by
  intro i v s
  refine ⟨fun hi => ?_, fun hi => ⟨memWrite_outside hi v s, memRead_outside hi s⟩⟩
  refine ⟨{ s with frame := memSet s.frame i v }, memWrite_eq hi v s, rfl, ?_, fun a ha => ?_⟩
  · rw [memRead_eq hi, memGet_memSet_same]
  · exact memRead_congr (memGet_memSet_other _ _ ha)

/-! ### Several clock edges -/

/-- A cursor or counter below its greatest value moves up by one. -/
theorem toNat_succ {n : Nat} {b : BitVec n} (h : b.toNat + 1 < 2 ^ n) : (b + 1).toNat = b.toNat + 1 := by
  have hone : (1 : BitVec n).toNat = 1 := Nat.mod_eq_of_lt (show 1 < 2 ^ n by omega)
  rw [BitVec.toNat_add, hone, Nat.mod_eq_of_lt h]

/-- The accumulator after the samples `ds`, the first at bit `bitc`. -/
def insertBits (acc : Byte) (bitc : BitVec 3) : List (BitVec 1) → Byte
  | [] => acc
  | d :: ds => insertBits (insertBit acc bitc d) (bitc + 1) ds

/-- Delivered clock edges that stay below the eighth bit insert their samples in order. -/
theorem applyEvents_clk_below_eighth {s : State} (ds : List (BitVec 1)) (h : ClkDelivered s)
    (hb : s.bitc.toNat + ds.length ≤ 7) :
    applyEvents (ds.map .clk) s =
      .next { s with acc := insertBits s.acc s.bitc ds, bitc := s.bitc + BitVec.ofNat 3 ds.length } := by
  induction ds generalizing s with
  | nil => simp [insertBits]
  | cons d ds ih =>
    rw [List.length_cons] at hb
    have hnext : (s.bitc + 1).toNat = s.bitc.toNat + 1 := toNat_succ (by omega)
    have hlen : s.bitc + 1 + BitVec.ofNat 3 ds.length = s.bitc + BitVec.ofNat 3 (ds.length + 1) := by
      rw [BitVec.ofNat_add, BitVec.add_assoc, BitVec.add_comm 1]; rfl
    rw [List.map_cons, applyEvents_cons, exec_clk_delivered h, clockHandler_bit d (by omega), andThen_next,
      ih (s := { s with acc := insertBit s.acc s.bitc d, bitc := s.bitc + 1 }) h (by rw [hnext]; omega)]
    simp only [insertBits, List.length_cons, hlen]

/-- Eight delivered clock edges from an empty accumulator store the byte they assemble. -/
theorem applyEvents_clk_byte {s : State} (ds : List (BitVec 1)) (d : BitVec 1) (h : ClkDelivered s)
    (hlen : ds.length = 7) (hb : s.bitc = 0) (ha : s.acc = 0) (hr : s.bytec.toNat < 9) :
    applyEvents ((ds ++ [d]).map .clk) s = .next { s with
      bytec := s.bytec + 1
      frame := memSet s.frame s.bytec.toNat (insertBit (insertBits 0 0 ds) 7 d) } := by
  have hseven := applyEvents_clk_below_eighth ds h (by simp [hb, hlen])
  rw [List.map_append, applyEvents_append, hseven, andThen_next, List.map_singleton, applyEvents_cons,
    exec_clk_delivered (by exact h), clockHandler_append d (by simp [hb, hlen]) (by exact hr)]
  simp [hb, ha, hlen]

/-- Settles O25: seven edges below the eighth bit, then the one that appends; the inserted bits are the OR of R44. -/
theorem eightClocksAssembleAByte : Obligations.EightClocksAssembleAByte := by
  intro s b0 b1 b2 b3 b4 b5 b6 b7 h hb ha hr
  refine ⟨_, applyEvents_clk_byte [b0, b1, b2, b3, b4, b5, b6] b7 h rfl hb ha hr, rfl, ?_, fun a hne => ?_⟩
  · rw [memRead_eq hr, memGet_memSet_same]
    simp [insertBits, insertBit]
  · exact memRead_congr (memGet_memSet_other _ _ hne)

/-! ### What an event can do -/

/-- The ways an event changes the state, apart from the words presented. -/
inductive Effect (s : State) : State → Prop
  /-- no element but the mark, the trace and the draw count -/
  | record (r : Bool) (o : List Record) (n : Nat) : Effect s { s with refused := r, out := o, draws := n }
  /-- a clock edge handled -/
  | clock {t : State} (d : BitVec 1) (n : Nat) (harm : s.clkArmed = true) (hen : s.enabled = true)
      (hrun : clockHandler d { s with draws := n } = .next t) : Effect s t
  /-- a strobe edge handled -/
  | strobe (n : Nat) (harm : s.stbArmed = true) (hen : s.enabled = true) :
      Effect s (buttonTick (completeFrame (finalized { s with draws := n })))
  /-- a complete frame consumed -/
  | consume {t : State} (hen : s.enabled = true) (hrun : consumeFrame s = .next t) : Effect s t
  /-- the block enabled -/
  | enable (hen : s.enabled = false) : Effect s (enableGate s)
  /-- the block disabled -/
  | disable {t : State} (hen : s.enabled = true) (hrun : disableGate s = .next t) : Effect s t
  /-- a request accepted -/
  | accept (id : CmdId) (o : List Record) (n : Nat) (hid : legalId id = true) (hen : s.enabled = true) :
      Effect s { s with pending := id, out := o, draws := n }

theorem Effect.refl (s : State) : Effect s s := .record s.refused s.out s.draws

theorem execClk_effect {d : BitVec 1} {s t : State} (h : execClk d s = .next t) : Effect s t := by
  obtain ⟨n, hlost⟩ | ⟨harm, hen, n, hrun⟩ := deliver_cases s.clkArmed (clockHandler d) s
  · cases hlost.symm.trans h
    exact .record s.refused s.out n
  · exact .clock d n harm hen (hrun.symm.trans h)

theorem execStb_effect {s t : State} (h : execStb s = .next t) : Effect s t := by
  obtain ⟨n, hlost⟩ | ⟨harm, hen, n, hrun⟩ := deliver_cases s.stbArmed strobeHandler s
  · cases hlost.symm.trans h
    exact .record s.refused s.out n
  · rw [strobeHandler_eq] at hrun
    cases hrun.symm.trans h
    exact .strobe n harm hen

theorem execPoll_effect {s t : State} (h : execPoll s = .next t) : Effect s t := by
  unfold execPoll at h
  split at h
  · next hen =>
    split at h
    · exact .consume hen h
    · cases h; exact .refl s
  · cases h; exact .refl s

theorem execEn_effect {b : Bool} {s t : State} (h : execEn b s = .next t) : Effect s t := by
  cases b <;> cases hen : s.enabled
  · cases (disableGate_off hen).symm.trans h
    exact .refl s
  · exact .disable hen h
  · cases h
    exact .enable hen
  · cases (congrArg _ (enableGate_on hen)).symm.trans h
    exact .refl s

theorem request_effect {id : CmdId} (hid : legalId id = true) (s : State) : Effect s (request id s) := by
  cases hen : s.enabled
  · obtain ⟨o, n, heq, -⟩ := request_off id hen
    rw [heq]
    exact .record s.refused o n
  · obtain ⟨o, n, heq, -⟩ := request_on id hen
    rw [heq]
    exact .accept id o n hid hen

theorem execReq_effect {id : CmdId} {s t : State} (h : execReq id s = .next t) : Effect s t := by
  unfold execReq at h
  split at h
  · next hid => cases h; exact request_effect hid s
  · cases h; exact .record true s.out s.draws

/-- Every event has one of these effects. -/
theorem exec_effect {i : Instr} {s t : State} (h : exec i s = .next t) : Effect s t := by
  cases i with
  | clk d => exact execClk_effect h
  | stb => exact execStb_effect h
  | poll => exact execPoll_effect h
  | en b => exact execEn_effect h
  | req id => exact execReq_effect h
  | reqPower b => cases h; exact request_effect rfl s
  | reqOneCup => cases h; exact request_effect rfl s
  | reqTwoCups => cases h; exact request_effect rfl s
  | reqHotWater => cases h; exact request_effect rfl s

theorem applyWord_effect {w : Byte} {s t : State} (h : applyWord w s = .next t) : Effect s t := by
  cases hdec : decode w with
  | ok i => exact exec_effect ((applyWord_ok hdec s).symm.trans h)
  | error e =>
    cases (applyWord_error hdec s).symm.trans h
    exact .record true s.out s.draws

/-- A step takes words from the queue and has one of these effects. -/
theorem step_effect {s t : State} (h : step s = .next t) : ∃ ws, Effect { s with events := ws } t := by
  obtain ⟨-, hwait⟩ | ⟨w, ws, -, hword⟩ := step_cases s
  · cases hwait.symm.trans h
    exact ⟨s.events, .refl s⟩
  · exact ⟨ws, applyWord_effect (hword.symm.trans h)⟩

/-! ### The canonical form of the frame buffer -/

theorem zeroed_wf {m : Memory} (h : m.wf = true) : (zeroed m).wf = true :=
  Memory.wf_foldl_memSet 0 (by decide) h

theorem clockHandler_wf {d : BitVec 1} {s t : State} (hw : s.frame.wf = true) (h : clockHandler d s = .next t) :
    t.frame.wf = true := by
  obtain ⟨-, heq⟩ | ⟨-, hroom, heq⟩ | ⟨-, -, heq⟩ := clockHandler_cases d s <;> cases heq.symm.trans h
  · exact hw
  · exact Memory.wf_memSet _ hroom hw
  · exact hw

theorem finalized_wf {s : State} (hw : s.frame.wf = true) : (finalized s).frame.wf = true := by
  by_cases h : 0 < s.bitc.toNat ∧ s.bytec.toNat < 9
  · rw [finalized_some h.1 h.2]
    cases hc : storeChoice s
    · exact hw
    · exact Memory.wf_memSet _ h.2 hw
  · rwa [finalized_none (by omega)]

theorem completeFrame_frame (s : State) : (completeFrame s).frame = s.frame := by
  by_cases h : s.bytec.toNat = 9
  · rw [completeFrame_full h]
  · rw [completeFrame_short h]

theorem buttonTick_keeps_frame (s : State) : (buttonTick s).frame = s.frame := by
  rw [buttonTick_eq]

theorem enableGate_frame (s : State) : (enableGate s).frame = s.frame := by
  cases h : s.enabled
  · rw [enableGate_off h]
  · rw [enableGate_on h]

theorem Effect.keeps_frame_wf {s t : State} (h : Effect s t) (hw : s.frame.wf = true) : t.frame.wf = true := by
  cases h with
  | record r o n => exact hw
  | clock d n harm hen hrun => exact clockHandler_wf (s := { s with draws := n }) hw hrun
  | strobe n harm hen =>
    rw [buttonTick_keeps_frame, completeFrame_frame]
    exact finalized_wf hw
  | consume hen hrun =>
    cases (consumeFrame_eq s).symm.trans hrun
    exact zeroed_wf hw
  | enable hen => rwa [enableGate_frame]
  | disable hen hrun =>
    cases (disableGate_on hen).symm.trans hrun
    exact zeroed_wf hw
  | accept id o n hid hen => exact hw

/-- Settles O18: every effect writes the contents by `memSet` at a slot below 9, or not at all. -/
theorem stepKeepsTheFrameCanonical : Obligations.StepKeepsTheFrameCanonical := by
  intro s t hw h
  obtain ⟨ws, heff⟩ := step_effect h
  exact heff.keeps_frame_wf hw

/-! ### The invariants R28 to R33 -/

/-- The invariants speak of the block alone, S0 to S12. -/
theorem Inv.of_bookkeeping_update {s : State} (h : Inv s) (r : Bool) (o : List Record) (n : Nat) (ws : List Byte) :
    Inv { s with refused := r, out := o, draws := n, events := ws } :=
  ⟨h.range, h.arming, h.completion, h.zero, h.button, h.disabled, h.canonical⟩

/-- An armed source finds the block without a complete frame (R29). -/
theorem Inv.not_complete_of_armed {s : State} (h : Inv s) (harm : s.clkArmed = true) : s.complete = false :=
  (h.arming.2 harm).2

/-- What the assembler must leave for the invariants to stay, while the block is enabled and no frame is complete. -/
theorem Inv.of_assembler_update {s : State} (h : Inv s) (hen : s.enabled = true) (hc : s.complete = false)
    {acc : Byte} {bitc : BitVec 3} {bytec : BitVec 4} {m : Memory} (hbytec : bytec.toNat ≤ 9)
    (hacc : acc.toNat < 2 ^ bitc.toNat) (hm : ∀ i, i < 9 → bytec.toNat ≤ i → memGet m i = 0) (hw : m.wf = true) :
    Inv { s with acc := acc, bitc := bitc, bytec := bytec, frame := m } where
  range := ⟨hbytec, h.range.2⟩
  arming := h.arming
  completion := ⟨h.completion.1, fun hfull => nomatch hc.symm.trans hfull⟩
  zero := ⟨hacc, fun _ => hm⟩
  button := h.button
  disabled := fun hoff => nomatch hen.symm.trans hoff
  canonical := hw

theorem emptyBits_lt : (0 : Byte).toNat < 2 ^ (0 : BitVec 3).toNat := by decide

/-- R31 with the cursor past the slot written: the slots from there on were zero before. -/
theorem memGet_memSet_beyond {m : Memory} {b : BitVec 4} (v : Byte) (hb : b.toNat < 9)
    (hm : ∀ i, i < 9 → b.toNat ≤ i → memGet m i = 0) :
    ∀ i, i < 9 → (b + 1).toNat ≤ i → memGet (memSet m b.toNat v) i = 0 := by
  intro i hi hle
  rw [toNat_succ (by omega)] at hle
  rw [memGet_memSet_other _ _ (by omega)]
  exact hm i hi (by omega)

/-- R31 after one more bit. -/
theorem insertBit_lt {acc : Byte} {bitc : BitVec 3} (d : BitVec 1) (h : acc.toNat < 2 ^ bitc.toNat) :
    (insertBit acc bitc d).toNat < 2 ^ (bitc.toNat + 1) := by
  have hd : d.toNat <<< bitc.toNat < 2 ^ (bitc.toNat + 1) := by
    rw [Nat.shiftLeft_eq, Nat.pow_succ, Nat.mul_comm]
    exact Nat.mul_lt_mul_of_pos_left d.isLt (Nat.two_pow_pos _)
  rw [insertBit, BitVec.toNat_or, BitVec.toNat_shiftLeft]
  refine Nat.or_lt_two_pow (h.trans (Nat.pow_lt_pow_right (by decide) (Nat.lt_succ_self _))) ?_
  refine (Nat.mod_le _ _).trans_lt ?_
  rwa [BitVec.toNat_setWidth, Nat.mod_eq_of_lt (by have := d.isLt; omega)]

theorem clockHandler_keeps_inv {d : BitVec 1} {s t : State} (h : Inv s) (harm : s.clkArmed = true)
    (hen : s.enabled = true) (hrun : clockHandler d s = .next t) : Inv t := by
  have hc := h.not_complete_of_armed harm
  have hw := clockHandler_wf h.canonical hrun
  obtain ⟨hacc, hslots⟩ := h.zero
  obtain ⟨hb, heq⟩ | ⟨-, hroom, heq⟩ | ⟨-, -, heq⟩ := clockHandler_cases d s <;> cases heq.symm.trans hrun
  · have hbitc : (s.bitc + 1).toNat = s.bitc.toNat + 1 := toNat_succ (by omega)
    exact h.of_assembler_update hen hc h.range.1 (hbitc ▸ insertBit_lt d hacc) (hslots hc) hw
  · have hcursor : (s.bytec + 1).toNat = s.bytec.toNat + 1 := toNat_succ (by omega)
    exact h.of_assembler_update hen hc (by omega) (by decide) (memGet_memSet_beyond _ hroom (hslots hc)) hw
  · exact h.of_assembler_update hen hc h.range.1 (by decide) (hslots hc) hw

theorem finalized_keeps_inv {s : State} (h : Inv s) (harm : s.clkArmed = true) (hen : s.enabled = true) :
    Inv (finalized s) := by
  by_cases hp : 0 < s.bitc.toNat ∧ s.bytec.toNat < 9
  · obtain ⟨hb, hroom⟩ := hp
    have hc := h.not_complete_of_armed harm
    have hslots := h.zero.2 hc
    have hw := finalized_wf h.canonical
    rw [finalized_some hb hroom] at hw ⊢
    have hcursor : (s.bytec + 1).toNat = s.bytec.toNat + 1 := toNat_succ (by omega)
    have hdrawn := h.of_bookkeeping_update s.refused s.out (storeDraws s) s.events
    refine hdrawn.of_assembler_update hen hc (by omega) (by decide) ?_ hw
    cases storeChoice s
    · exact fun i hi hle => hslots i hi (by omega)
    · exact memGet_memSet_beyond _ hroom hslots
  · rwa [finalized_none (by omega)]

theorem finalized_enabled (s : State) : (finalized s).enabled = s.enabled := by
  unfold finalized; split <;> rfl

theorem completeFrame_enabled (s : State) : (completeFrame s).enabled = s.enabled := by
  by_cases h : s.bytec.toNat = 9
  · rw [completeFrame_full h]
  · rw [completeFrame_short h]

theorem completeFrame_keeps_inv {s : State} (h : Inv s) (hen : s.enabled = true) : Inv (completeFrame s) := by
  by_cases h9 : s.bytec.toNat = 9
  · rw [completeFrame_full h9]
    exact {
      range := ⟨Nat.zero_le _, h.range.2⟩
      arming := ⟨rfl, nofun⟩
      completion := ⟨rfl, fun _ => rfl⟩
      zero := ⟨h.zero.1, nofun⟩
      button := h.button
      disabled := fun hoff => nomatch hen.symm.trans hoff
      canonical := h.canonical }
  · rwa [completeFrame_short h9]

/-- What the button must leave for the invariants to stay, while the block is enabled. -/
theorem Inv.of_button_update {s : State} (h : Inv s) (hen : s.enabled = true) {p : CmdId} {a b : Bool} {k : BitVec 4}
    (hp : p.toNat ≤ 6) (hk : k.toNat ≤ 11) (hb : b = a) (ha : a = true → p ≠ 0 ∧ k.toNat ≤ 10) :
    Inv { s with pending := p, active := a, ticks := k, btnDrive := b } where
  range := ⟨h.range.1, hp, hk⟩
  arming := h.arming
  completion := h.completion
  zero := h.zero
  button := ⟨hb, ha, fun hoff => nomatch hen.symm.trans hoff⟩
  disabled := fun hoff => nomatch hen.symm.trans hoff
  canonical := h.canonical

theorem buttonTick_keeps_inv {s : State} (h : Inv s) (hen : s.enabled = true) : Inv (buttonTick s) := by
  obtain ⟨-, hpend, -⟩ := h.range
  obtain ⟨hdrive, hactive, -⟩ := h.button
  cases ha : s.active
  · by_cases hp : s.pending = 0
    · rwa [buttonTick_idle ha hp]
    · rw [buttonTick_start ha hp]
      exact h.of_button_update hen hpend (by decide) rfl fun _ => ⟨hp, by decide⟩
  · obtain ⟨hp, ht⟩ := hactive ha
    have hk : (s.ticks + 1).toNat = s.ticks.toNat + 1 := toNat_succ (by omega)
    rcases Nat.lt_or_ge s.ticks.toNat 10 with hlt | hge
    · rw [buttonTick_count ha hlt]
      exact h.of_button_update hen hpend (by omega) hdrive fun _ => ⟨hp, by omega⟩
    · rw [buttonTick_release ha (by omega)]
      exact h.of_button_update hen (by decide) (by omega) rfl nofun

theorem Inv.after_strobe {s : State} (h : Inv s) (harm : s.stbArmed = true) (hen : s.enabled = true) :
    Inv (buttonTick (completeFrame (finalized s))) := by
  have hfin := finalized_keeps_inv h (h.arming.1.trans harm) hen
  have hen' : (finalized s).enabled = true := (finalized_enabled s).trans hen
  exact buttonTick_keeps_inv (completeFrame_keeps_inv hfin hen') ((completeFrame_enabled _).trans hen')

theorem consumeFrame_keeps_inv {s t : State} (h : Inv s) (hen : s.enabled = true) (hrun : consumeFrame s = .next t) :
    Inv t := by
  cases (consumeFrame_eq s).symm.trans hrun
  exact {
    range := h.range
    arming := ⟨rfl, fun _ => ⟨hen, rfl⟩⟩
    completion := ⟨rfl, nofun⟩
    zero := ⟨emptyBits_lt, fun _ i hi _ => (memGet_zeroed _ i).trans (if_pos hi)⟩
    button := h.button
    disabled := fun hoff => nomatch hen.symm.trans hoff
    canonical := zeroed_wf h.canonical }

/-- Enabling relies on R33: the disabled block has no complete frame. -/
theorem enableGate_keeps_inv {s : State} (h : Inv s) (hen : s.enabled = false) : Inv (enableGate s) := by
  obtain ⟨⟨-, -, -, -, -, -, hc, -⟩, -, hact, -, -⟩ := h.disabled hen
  rw [enableGate_off hen]
  exact {
    range := h.range
    arming := ⟨rfl, fun _ => ⟨rfl, hc⟩⟩
    completion := h.completion
    zero := h.zero
    button := ⟨hact.symm, h.button.2.1, nofun⟩
    disabled := nofun
    canonical := h.canonical }

/-- Disabling leaves S1 to S12 as reset has them: the canonical contents, zeroed, are the empty list. -/
theorem disableGate_keeps_inv {s t : State} (h : Inv s) (hen : s.enabled = true) (hrun : disableGate s = .next t) :
    Inv t := by
  cases (disableGate_on hen).symm.trans hrun
  exact {
    range := ⟨Nat.zero_le _, Nat.zero_le _, Nat.zero_le _⟩
    arming := ⟨rfl, nofun⟩
    completion := ⟨rfl, fun _ => rfl⟩
    zero := ⟨emptyBits_lt, fun _ i hi _ => (memGet_zeroed _ i).trans (if_pos hi)⟩
    button := ⟨rfl, nofun, fun _ => ⟨rfl, rfl, rfl⟩⟩
    disabled := fun _ => ⟨⟨rfl, rfl, rfl, rfl, zeroed_of_wf h.canonical, rfl, rfl, rfl⟩, rfl, rfl, rfl, rfl⟩
    canonical := zeroed_wf h.canonical }

/-- An accepted identifier is 1 to 6, so a press under way keeps a pending command (R32). -/
theorem Inv.after_accept {s : State} (h : Inv s) {id : CmdId} (hid : legalId id = true) (hen : s.enabled = true) :
    Inv { s with pending := id } := by
  obtain ⟨hmin, hmax⟩ : 1 ≤ id.toNat ∧ id.toNat ≤ 6 := of_decide_eq_true hid
  obtain ⟨hdrive, hactive, -⟩ := h.button
  have hne : id ≠ 0 := by rintro rfl; exact absurd hmin (by decide)
  exact h.of_button_update hen hmax h.range.2.2 hdrive fun ha => ⟨hne, (hactive ha).2⟩

theorem Effect.keeps_inv {s t : State} (h : Effect s t) (hi : Inv s) : Inv t := by
  cases h with
  | record r o n => exact hi.of_bookkeeping_update r o n s.events
  | clock d n harm hen hrun =>
    exact clockHandler_keeps_inv (hi.of_bookkeeping_update s.refused s.out n s.events) harm hen hrun
  | strobe n harm hen => exact (hi.of_bookkeeping_update s.refused s.out n s.events).after_strobe harm hen
  | consume hen hrun => exact consumeFrame_keeps_inv hi hen hrun
  | enable hen => exact enableGate_keeps_inv hi hen
  | disable hen hrun => exact disableGate_keeps_inv hi hen hrun
  | accept id o n hid hen => exact (hi.after_accept hid hen).of_bookkeeping_update s.refused o n s.events

/-- Settles O17: each effect keeps the invariants, and taking words from the queue touches none of them. -/
theorem stepKeepsTheInvariants : Obligations.StepKeepsTheInvariants := by
  intro s t hi h
  obtain ⟨ws, heff⟩ := step_effect h
  exact heff.keeps_inv (hi.of_bookkeeping_update s.refused s.out s.draws ws)

end Sys2Proof.Machine

/-! THEOREMS. The event word, the queue of words, and event scripts (30_encoding sections 1 to 3). -/

namespace Sys2Proof.Machine

/-! ### The fields of a word (R61) -/

/-- A word is its opcode nibble above its operand nibble. -/
theorem opcField_append_opdField (w : Byte) : opcField w ++ opdField w = w := by
  rw [opcField, opdField, BitVec.extractLsb'_append_extractLsb'_eq_extractLsb' (by rfl), BitVec.extractLsb'_eq_self]

/-- A word is an instruction's exactly when both its nibbles are the instruction's. -/
theorem encode_eq_iff {i : Instr} {w : Byte} : encode i = w ↔ opcField w = opcode i ∧ opdField w = operand i := by
  constructor
  · rintro rfl
    exact Laws.EncodedFields.fields_append _ _
  · rintro ⟨hopc, hopd⟩
    rw [encode, ← hopc, ← hopd, opcField_append_opdField]

/-- The reserved bits `w[3:1]` are 0 exactly where the operand nibble is a single bit (R63). -/
theorem opdField_eq_append_bit {w : Byte} {d : BitVec 1} :
    opdField w = 0#3 ++ d ↔ aboveBitOperand w = 0 ∧ bitOperand w = d := by
  revert w d; decide

/-- The reserved bit `w[3]` is 0 exactly where the operand nibble is an identifier (R63). -/
theorem opdField_eq_append_id {w : Byte} {id : CmdId} :
    opdField w = 0#1 ++ id ↔ aboveIdOperand w = 0 ∧ idOperand w = id := by
  revert w id; decide

theorem bitToBool_boolToBit (b : Bool) : bitToBool (boolToBit b) = b := by
  cases b <;> rfl

theorem boolToBit_bitToBool (d : BitVec 1) : boolToBit (bitToBool d) = d := by
  revert d; decide

/-! ### The decoder (R62 to R66) -/

/-- The decoder's checks, one at a time: what follows a check is answered only where it holds. -/
theorem ite_error_eq_ok {ε α : Type} {c : Prop} [Decidable c] {x : Except ε α} {e : ε} {b : α} :
    (if c then x else .error e) = .ok b ↔ c ∧ x = .ok b := by
  split <;> simp [*]

theorem decodeBit_eq_ok {w : Byte} {f : BitVec 1 → Instr} {i : Instr} :
    decodeBit w f = .ok i ↔ ∃ d, opdField w = 0#3 ++ d ∧ f d = i := by
  simp only [decodeBit, ite_error_eq_ok, Except.ok.injEq, opdField_eq_append_bit, and_assoc, exists_and_left,
    exists_eq_left']

theorem decodeNone_eq_ok {w : Byte} {i j : Instr} : decodeNone w j = .ok i ↔ opdField w = 0 ∧ j = i := by
  simp only [decodeNone, ite_error_eq_ok, Except.ok.injEq]

theorem decodeReq_eq_ok {w : Byte} {i : Instr} :
    decodeReq w = .ok i ↔ ∃ id, opdField w = 0#1 ++ id ∧ legalId id = true ∧ .req id = i := by
  simp only [decodeReq, ite_error_eq_ok, Except.ok.injEq, opdField_eq_append_id, and_assoc, exists_and_left,
    exists_eq_left']

/-- The decoder reads off an instruction's own fields. -/
theorem decode_of_fields {w : Byte} {i : Instr} (hopc : opcField w = opcode i) (hopd : opdField w = operand i)
    (hwf : i.wf = true) : decode w = .ok i := by
  rw [decode, hopc]
  cases i with
  | clk d => exact decodeBit_eq_ok.mpr ⟨d, hopd, rfl⟩
  | stb => exact decodeNone_eq_ok.mpr ⟨hopd, rfl⟩
  | poll => exact decodeNone_eq_ok.mpr ⟨hopd, rfl⟩
  | en b => exact decodeBit_eq_ok.mpr ⟨boolToBit b, hopd, congrArg Instr.en (bitToBool_boolToBit b)⟩
  | req id => exact decodeReq_eq_ok.mpr ⟨id, hopd, hwf, rfl⟩
  | reqPower b => exact decodeBit_eq_ok.mpr ⟨boolToBit b, hopd, congrArg Instr.reqPower (bitToBool_boolToBit b)⟩
  | reqOneCup => exact decodeNone_eq_ok.mpr ⟨hopd, rfl⟩
  | reqTwoCups => exact decodeNone_eq_ok.mpr ⟨hopd, rfl⟩
  | reqHotWater => exact decodeNone_eq_ok.mpr ⟨hopd, rfl⟩

/-- A decoded instruction is well-formed and has the word's fields. -/
theorem fields_of_decode {w : Byte} {i : Instr} (h : decode w = .ok i) :
    opcField w = opcode i ∧ opdField w = operand i ∧ i.wf = true := by
  unfold decode at h
  split at h
  case h_1 hop =>
    obtain ⟨d, hopd, rfl⟩ := decodeBit_eq_ok.mp h
    exact ⟨BitVec.eq_of_toNat_eq hop, hopd, rfl⟩
  case h_4 hop | h_6 hop =>
    obtain ⟨d, hopd, rfl⟩ := decodeBit_eq_ok.mp h
    exact ⟨BitVec.eq_of_toNat_eq hop, by rw [hopd, operand, boolToBit_bitToBool], rfl⟩
  case h_5 hop =>
    obtain ⟨id, hopd, hid, rfl⟩ := decodeReq_eq_ok.mp h
    exact ⟨BitVec.eq_of_toNat_eq hop, hopd, hid⟩
  case h_10 => cases h
  all_goals
    next hop =>
      obtain ⟨hopd, rfl⟩ := decodeNone_eq_ok.mp h
      exact ⟨BitVec.eq_of_toNat_eq hop, hopd, rfl⟩

/-- A word decodes to an instruction exactly when it is that instruction's word and the instruction is well-formed. -/
theorem decode_eq_ok_iff {w : Byte} {i : Instr} : decode w = .ok i ↔ encode i = w ∧ i.wf = true := by
  rw [encode_eq_iff]
  constructor
  · intro h
    obtain ⟨hopc, hopd, hwf⟩ := fields_of_decode h
    exact ⟨⟨hopc, hopd⟩, hwf⟩
  · rintro ⟨⟨hopc, hopd⟩, hwf⟩
    exact decode_of_fields hopc hopd hwf

/-- Settles O1: the word's fields are the instruction's, and the decoder reads them off. -/
theorem encodeThenDecode : Obligations.EncodeThenDecode := fun _ hwf => decode_eq_ok_iff.mpr ⟨rfl, hwf⟩

/-- Settles O2: the decoder answers only the instruction whose fields the word has. -/
theorem decodeThenEncode : Obligations.DecodeThenEncode := fun _ _ h => decode_eq_ok_iff.mp h

/-- Settles O4: each of the eleven words is evaluated. -/
theorem sampleWordsDecode : Obligations.SampleWordsDecode :=
  ⟨rfl, rfl, rfl, rfl, rfl, rfl, rfl, rfl, rfl, rfl, rfl⟩

/-! ### Refused words (R64 to R66) -/

/-- A word whose fields are those of no well-formed instruction decodes to none, and sets the mark alone. -/
theorem refused_of_fields {w : Byte}
    (h : ∀ i : Instr, opcField w = opcode i → opdField w = operand i → i.wf = true → False) (s : State) :
    (∀ i, decode w ≠ .ok i) ∧ applyWord w s = .next { s with refused := true } := by
  have hno : ∀ i, decode w ≠ .ok i := by
    intro i hdec
    obtain ⟨hopc, hopd, hwf⟩ := fields_of_decode hdec
    exact h i hopc hopd hwf
  refine ⟨hno, ?_⟩
  cases hdec : decode w with
  | ok i => exact absurd hdec (hno i)
  | error e => exact applyWord_error hdec s

theorem opcode_ne_zero (i : Instr) : opcode i ≠ 0 := by
  cases i <;> simp [opcode]

theorem opcode_lt (i : Instr) : (opcode i).toNat < 0xA := by
  cases i <;> simp [opcode]

theorem operand_of_bit_opcode {i : Instr} (h : opcode i ∈ ([0x1, 0x4, 0x6] : List (BitVec 4))) :
    ∃ d : BitVec 1, operand i = 0#3 ++ d := by
  cases i with
  | clk d => exact ⟨d, rfl⟩
  | en b => exact ⟨boolToBit b, rfl⟩
  | reqPower b => exact ⟨boolToBit b, rfl⟩
  | _ => simp [opcode] at h

theorem eq_req_of_opcode {i : Instr} (h : opcode i = 0x5) : ∃ id, i = .req id := by
  cases i with
  | req id => exact ⟨id, rfl⟩
  | _ => simp [opcode] at h

theorem operand_of_bare_opcode {i : Instr} (h : opcode i ∈ ([0x2, 0x3, 0x7, 0x8, 0x9] : List (BitVec 4))) :
    operand i = 0 := by
  cases i with
  | clk d => simp [opcode] at h
  | en b => simp [opcode] at h
  | req id => simp [opcode] at h
  | reqPower b => simp [opcode] at h
  | _ => rfl

/-- Settles O5: no instruction has a reserved opcode. -/
theorem reservedOpcodeIsRefused : Obligations.ReservedOpcodeIsRefused := by
  intro w s hres
  refine refused_of_fields (fun i hopc _ _ => ?_) s
  obtain hzero | hhigh := hres
  · exact opcode_ne_zero i (hopc.symm.trans hzero)
  · exact absurd hhigh (Nat.not_le.mpr (lt_of_eq_of_lt (congrArg BitVec.toNat hopc) (opcode_lt i)))

/-- Settles O6: the reserved bits of an instruction's operand nibble are 0, by the kind of its opcode. -/
theorem reservedOperandBitIsRefused : Obligations.ReservedOperandBitIsRefused := by
  intro w s hres
  refine refused_of_fields (fun i hopc hopd _ => ?_) s
  rw [show w.extractLsb' 4 4 = opcode i from hopc] at hres
  obtain ⟨hop, hbits⟩ | ⟨hop, hbit⟩ | ⟨hop, hbits⟩ := hres
  · obtain ⟨d, hd⟩ := operand_of_bit_opcode hop
    exact hbits (opdField_eq_append_bit.mp (hopd.trans hd)).1
  · obtain ⟨id, rfl⟩ := eq_req_of_opcode hop
    exact hbit (opdField_eq_append_id.mp hopd).1
  · exact hbits (hopd.trans (operand_of_bare_opcode hop))

/-- Settles O7: a well-formed request carries an identifier from 1 to 6. -/
theorem reqZeroAndSevenAreRefused : Obligations.ReqZeroAndSevenAreRefused := by
  intro w s hop _ hid
  refine refused_of_fields (fun i hopc hopd hwf => ?_) s
  obtain ⟨id, rfl⟩ := eq_req_of_opcode (hopc.symm.trans hop)
  have hfield : w.extractLsb' 0 3 = id := (opdField_eq_append_id.mp hopd).2
  rw [hfield] at hid
  obtain rfl | rfl := hid <;> exact absurd hwf (by decide)

/-! ### The queue of words (log 1) -/

/-- The state with these words presented, in place of those that wait. -/
def setQueue (q : List Byte) (s : State) : State := { s with events := q }

/-- The answer, with these words presented in its next state. -/
def requeue (q : List Byte) (r : Result) : Result := andThen r fun t => .next (setQueue q t)

/-- A part of an event that neither reads nor writes the queue. -/
def QueueFree (f : State → Result) : Prop := ∀ q s, f (setQueue q s) = requeue q (f s)

/-- A part that always completes is queue-free if its next state is. -/
theorem QueueFree.of_next {f : State → Result} {g : State → State} (hf : ∀ s, f s = .next (g s))
    (hg : ∀ q s, g (setQueue q s) = setQueue q (g s)) : QueueFree f := by
  intro q s
  rw [hf, hf, hg]
  rfl

theorem QueueFree.guarded {f : State → Result} (hf : QueueFree f) : QueueFree (guarded f) := by
  intro q s
  rw [Machine.guarded, Machine.guarded, apply_ite (requeue q), ← hf]
  rfl

theorem QueueFree.deliver {f : State → Result} (hf : QueueFree f) (armed : Bool) : QueueFree (deliver armed f) := by
  intro q s
  simp only [Machine.deliver, apply_ite (requeue q), ← hf.guarded q]
  rfl

theorem clockHandler_queueFree (d : BitVec 1) : QueueFree (clockHandler d) := by
  intro q s
  obtain ⟨h, heq⟩ | ⟨h, hroom, heq⟩ | ⟨h, hfull, heq⟩ := clockHandler_cases d s <;> rw [heq]
  · exact clockHandler_bit d h
  · exact clockHandler_append d h hroom
  · exact clockHandler_drop d h hfull

theorem finalized_setQueue (q : List Byte) (s : State) : finalized (setQueue q s) = setQueue q (finalized s) := by
  rw [finalized, finalized, apply_ite (setQueue q)]
  rfl

theorem completeFrame_setQueue (q : List Byte) (s : State) :
    completeFrame (setQueue q s) = setQueue q (completeFrame s) := by
  rw [completeFrame, completeFrame, apply_ite (setQueue q)]
  rfl

theorem buttonTick_setQueue (q : List Byte) (s : State) : buttonTick (setQueue q s) = setQueue q (buttonTick s) := by
  rw [buttonTick_eq, buttonTick_eq s]
  rfl

theorem strobeHandler_queueFree : QueueFree strobeHandler :=
  .of_next strobeHandler_eq fun q s => by rw [finalized_setQueue, completeFrame_setQueue, buttonTick_setQueue]

theorem consumeFrame_queueFree : QueueFree consumeFrame :=
  .of_next consumeFrame_eq fun _ _ => rfl

theorem execPoll_queueFree : QueueFree execPoll := by
  intro q s
  rw [execPoll, execPoll, apply_ite (requeue q), apply_ite (requeue q), ← consumeFrame_queueFree]
  rfl

theorem enableGate_setQueue (q : List Byte) (s : State) : enableGate (setQueue q s) = setQueue q (enableGate s) := by
  rw [enableGate, enableGate, apply_ite (setQueue q)]
  rfl

theorem disableGate_queueFree : QueueFree disableGate := by
  intro q s
  cases hen : s.enabled
  · rw [disableGate_off hen]
    exact disableGate_off hen
  · rw [disableGate_on hen]
    exact disableGate_on hen

theorem emitInfo_setQueue (r : Record) (q : List Byte) (s : State) :
    emitInfo r (setQueue q s) = setQueue q (emitInfo r s) := by
  unfold emitInfo
  obtain ⟨e, c, b, a, n, f, m, k, l, p, v, t, d, rf, o, ⟨ps, el, il⟩, w, x⟩ := s
  cases il <;> rfl

theorem request_setQueue (id : CmdId) (q : List Byte) (s : State) :
    request id (setQueue q s) = setQueue q (request id s) := by
  rw [request, request, apply_ite (setQueue q), ← emitInfo_setQueue, ← emitInfo_setQueue]
  rfl

theorem request_queueFree (id : CmdId) : QueueFree fun s => .next (request id s) :=
  .of_next (fun _ => rfl) (request_setQueue id)

theorem execReq_queueFree (id : CmdId) : QueueFree (execReq id) := by
  cases hid : legalId id
  · exact .of_next (g := markRefused) (fun s => by simp [execReq, hid]) fun _ _ => rfl
  · exact .of_next (fun s => by simp only [execReq, hid, if_true]) (request_setQueue id)

/-- No event reads or writes the queue. -/
theorem exec_queueFree (i : Instr) : QueueFree (exec i) := by
  cases i with
  | clk d => exact fun q s => (clockHandler_queueFree d).deliver s.clkArmed q s
  | stb => exact fun q s => strobeHandler_queueFree.deliver s.stbArmed q s
  | poll => exact execPoll_queueFree
  | en b =>
    cases b with
    | false => exact disableGate_queueFree
    | true => exact .of_next (fun _ => rfl) enableGate_setQueue
  | req id => exact execReq_queueFree id
  | reqPower b => exact request_queueFree _
  | reqOneCup => exact request_queueFree _
  | reqTwoCups => exact request_queueFree _
  | reqHotWater => exact request_queueFree _

theorem applyWord_queueFree (w : Byte) : QueueFree (applyWord w) := by
  intro q s
  cases hdec : decode w with
  | ok i => rw [applyWord_ok hdec, applyWord_ok hdec, exec_queueFree]
  | error e =>
    rw [applyWord_error hdec, applyWord_error hdec]
    rfl

/-- A run is its first step, then the run of the rest. -/
theorem core_run_succ (k : Nat) (s : Sys2Proof.core.State) :
    Sys2Proof.core.run (k + 1) s = andThen (Sys2Proof.core.step s) (Sys2Proof.core.run k) := by
  rw [Host.Core.run]
  cases Sys2Proof.core.step s <;> rfl

/-- Settles O11: each step takes the head word, whose application leaves the words behind it alone. -/
theorem queueRunAppliesTheWords : Obligations.QueueRunAppliesTheWords := by
  intro ws
  induction ws with
  | nil => exact fun s => rfl
  | cons w ws ih =>
    intro s
    have hhead : step { s with events := w :: ws } = requeue ws (applyWord w s) := applyWord_queueFree w ws s
    have halone : applyWord w { s with events := [] } = requeue [] (applyWord w s) := applyWord_queueFree w [] s
    refine (core_run_succ _ _).trans ((congrArg (andThen · _) hhead).trans ?_)
    rw [applyWords_cons, halone]
    cases applyWord w s with
    | next t => exact ih t
    | fault f => rfl
    | refused q => rfl

/-! ### Event scripts (R70, R71) -/

theorem assembleStmt_of_wf {st : Stmt} (h : stmtWf st = true) : assembleStmt st = .ok ((expand st).map encode) :=
  if_pos h

/-- A script of legal statements means exactly what its expansion means (R71). -/
theorem assemble_of_wf {sts : List Stmt} (h : ∀ st ∈ sts, stmtWf st = true) :
    assemble sts = .ok ((sts.flatMap expand).map encode) := by
  induction sts with
  | nil => rfl
  | cons st sts ih =>
    obtain ⟨hst, hsts⟩ := List.forall_mem_cons.mp h
    rw [assemble, assembleStmt_of_wf hst, ih hsts, List.flatMap_cons, List.map_append]
    rfl

/-- The events of a legal statement are well-formed. -/
theorem wf_of_mem_expand {st : Stmt} (h : stmtWf st = true) {i : Instr} (hi : i ∈ expand st) : i.wf = true := by
  have hbits : ∀ n v, i ∈ bitsEvents n v → i.wf = true := by
    intro n v hmem
    obtain ⟨k, -, rfl⟩ := List.mem_map.mp hmem
    rfl
  cases st with
  | event j => rwa [List.mem_singleton.mp hi]
  | byte v => exact hbits 8 v hi
  | bits n v => exact hbits n v hi
  | frame bytes =>
    obtain ⟨v, -, hv⟩ := List.mem_flatMap.mp hi
    exact hbits 8 v hv
  | stbs n => rw [List.eq_of_mem_replicate hi]; rfl
  | polls n => rw [List.eq_of_mem_replicate hi]; rfl

/-- Settles O59: each event of the expansion is well-formed, so its word decodes to it. -/
theorem assembledWordsDecodeToTheExpansion : Obligations.AssembledWordsDecodeToTheExpansion := by
  intro st hst
  refine ⟨_, assembleStmt_of_wf hst, ?_⟩
  rw [List.map_map]
  exact List.map_congr_left fun i hi => encodeThenDecode i (wf_of_mem_expand hst hi)

/-- The word of a clock edge: its sample under the opcode 0x1. -/
theorem encode_clk (d : BitVec 1) : encode (.clk d) = 0x10 ||| d.setWidth 8 := by
  revert d; decide

theorem map_encode_bitsEvents (n : Nat) (v : Byte) : (bitsEvents n v).map encode =
    (List.range n).map fun k => (0x10 : Byte) ||| (v.extractLsb' k 1).setWidth 8 := by
  rw [bitsEvents, List.map_map]
  exact List.map_congr_left fun k _ => encode_clk _

theorem assembleStmt_bits {n : Nat} {v : Byte} (hmin : 1 ≤ n) (hmax : n ≤ 8) (hv : v.toNat < 2 ^ n) :
    assembleStmt (.bits n v) =
      .ok ((List.range n).map fun k => (0x10 : Byte) ||| (v.extractLsb' k 1).setWidth 8) := by
  rw [assembleStmt_of_wf (st := .bits n v) (decide_eq_true ⟨hmin, hmax, hv⟩), expand, map_encode_bitsEvents]

theorem assembleStmt_byte_eq_bits (v : Byte) : assembleStmt (.byte v) = assembleStmt (.bits 8 v) := by
  have hbits : stmtWf (.bits 8 v) = true := decide_eq_true ⟨by decide, by decide, v.isLt⟩
  rw [assembleStmt_of_wf hbits]
  exact assembleStmt_of_wf rfl

/-- A frame's events are those of its nine bytes in order. -/
theorem expand_frame (bytes : Frame) : expand (.frame bytes) = (bytes.toList.map Stmt.byte).flatMap expand := by
  rw [List.flatMap_map]
  rfl

theorem length_expand_frame (bytes : Frame) : (expand (.frame bytes)).length = 72 := by
  simp [expand, bitsEvents, List.length_flatMap]

theorem assemble_frame_bytes (bytes : Frame) :
    assemble (bytes.toList.map .byte) = .ok ((expand (.frame bytes)).map encode) := by
  rw [expand_frame]
  refine assemble_of_wf fun st hst => ?_
  obtain ⟨v, -, rfl⟩ := List.mem_map.mp hst
  rfl

/-- Settles O60: a statement's words are those of its expansion, event by event. -/
theorem pseudoInstructionWords : Obligations.PseudoInstructionWords := by
  refine ⟨fun v => ⟨?_, assembleStmt_byte_eq_bits v⟩, fun n v => assembleStmt_bits, fun bytes => ?_,
    fun n hn => ?_, fun n hn => ?_⟩
  · rw [assembleStmt_byte_eq_bits, assembleStmt_bits (by decide) (by decide) v.isLt]
  · have hlength : ((expand (.frame bytes)).map encode).length = 72 :=
      (List.length_map _).trans (length_expand_frame bytes)
    exact ⟨_, assembleStmt_of_wf rfl, hlength, assemble_frame_bytes bytes⟩
  · rw [assembleStmt_of_wf (st := .stbs n) (decide_eq_true hn), expand, List.map_replicate]
    rfl
  · rw [assembleStmt_of_wf (st := .polls n) (decide_eq_true hn), expand, List.map_replicate]
    rfl

end Sys2Proof.Machine

/-! THEOREMS. The frame assembler (40_frame_assembler): the clock edge, the strobe edge, the completion count, and a frame's
way from its clock edges to FRAME_OUT. -/

namespace Sys2Proof.Machine

/-! ### The clock edge (R82, R83) -/

theorem getLsbD_insertBit {acc : Byte} {bitc : BitVec 3} {d : BitVec 1} {j : Nat} (hj : j < 8) :
    (insertBit acc bitc d).getLsbD j = (acc.getLsbD j || (!decide (j < bitc.toNat) && d.getLsbD (j - bitc.toNat))) := by
  have hwide : j - bitc.toNat < 8 := by omega
  simp only [insertBit, BitVec.getLsbD_or, BitVec.getLsbD_shiftLeft, BitVec.getLsbD_setWidth, hj, hwide, decide_true,
    Bool.true_and]

/-- The bits below the cursor stay. -/
theorem getLsbD_insertBit_below {acc : Byte} {bitc : BitVec 3} {d : BitVec 1} {j : Nat} (hj : j < bitc.toNat) :
    (insertBit acc bitc d).getLsbD j = acc.getLsbD j := by
  simp only [getLsbD_insertBit (hj.trans bitc.isLt), hj, decide_true, Bool.not_true, Bool.false_and, Bool.or_false]

/-- Where the bits from the cursor up are 0, the sample is the bit at the cursor. -/
theorem getLsbD_insertBit_cursor {acc : Byte} {bitc : BitVec 3} {d : BitVec 1} (h : acc.toNat < 2 ^ bitc.toNat) :
    (insertBit acc bitc d).getLsbD bitc.toNat = d.getLsbD 0 := by
  have hclear : acc.getLsbD bitc.toNat = false := Nat.testBit_lt_two_pow h
  simp only [getLsbD_insertBit bitc.isLt, hclear, Nat.lt_irrefl, decide_false, Bool.not_false, Bool.true_and,
    Bool.false_or, Nat.sub_self]

/-- Settles O23: `insertBit` is the OR of R82, and the handler's two cases with room hand its value on. -/
theorem clkInsertsTheBit : Obligations.ClkInsertsTheBit := by
  intro s d h
  refine ⟨insertBit s.acc s.bitc d, rfl, fun hacc => ⟨getLsbD_insertBit_cursor hacc, fun _ => getLsbD_insertBit_below⟩,
    fun hb => ?_, fun hb hroom => ?_⟩
  · rw [exec_clk_delivered h, clockHandler_bit d hb]
  · refine ⟨_, (exec_clk_delivered h d).trans (clockHandler_append d hb hroom), ?_⟩
    rw [memRead_eq hroom, memGet_memSet_same]

/-- Settles O24: the handler's two cases of an eighth bit, with the read-after-write law of the slot. -/
theorem clkCompletesTheByte : Obligations.ClkCompletesTheByte := by
  intro s d h hb
  constructor
  · intro hroom
    refine ⟨_, (exec_clk_delivered h d).trans (clockHandler_append d hb hroom), rfl, ?_, fun a hne => ?_⟩
    · rw [memRead_eq hroom, memGet_memSet_same, insertBit, hb]
    · exact memRead_congr (memGet_memSet_other _ _ hne)
  · exact fun hfull => (exec_clk_delivered h d).trans (clockHandler_drop d hb hfull)

/-! ### The framing state (S1 to S8) -/

theorem sameFraming_refl (s : State) : SameFraming s s := ⟨rfl, rfl, rfl, rfl, rfl, rfl, rfl, rfl⟩

theorem sameFraming_trans {s t u : State} (hst : SameFraming s t) (htu : SameFraming t u) : SameFraming s u := by
  simp_all only [SameFraming, and_self]

/-! ### The strobe edge (R85 to R89) -/

/-- A delivered strobe is its framing part, but for the button state. -/
theorem exec_stb_framed {s : State} (h : StbDelivered s) : ∃ p a k b, exec .stb s =
    .next { completeFrame (finalized s) with pending := p, active := a, ticks := k, btnDrive := b } := by
  obtain ⟨p, a, k, b, htick⟩ := buttonTick_frame (completeFrame (finalized s))
  exact ⟨p, a, k, b, (exec_stb_delivered h).trans (congrArg _ htick)⟩

/-- The slot of a finalized byte keeps its value or takes the bits. -/
theorem memGet_finalized_cursor {s : State} (hb : 0 < s.bitc.toNat) (hroom : s.bytec.toNat < 9) :
    memGet (finalized s).frame s.bytec.toNat = if storeChoice s then s.acc else memGet s.frame s.bytec.toNat := by
  rw [finalized_some hb hroom]
  cases storeChoice s
  · rfl
  · exact memGet_memSet_same _ _ _

theorem memGet_finalized_other {s : State} {a : Nat} (hne : a ≠ s.bytec.toNat) :
    memGet (finalized s).frame a = memGet s.frame a := by
  unfold finalized
  split
  · cases storeChoice s
    · rfl
    · exact memGet_memSet_other _ _ hne
  · rfl

/-- A partial byte with room is finalized: the cursor moves, and from the ninth slot it completes the frame. -/
theorem framed_partial {s : State} (hb : 0 < s.bitc.toNat) (hroom : s.bytec.toNat < 9) :
    (completeFrame (finalized s)).acc = 0 ∧ (completeFrame (finalized s)).bitc = 0 ∧
    (s.bytec.toNat < 8 → (completeFrame (finalized s)).bytec = s.bytec + 1) ∧
    (s.bytec.toNat = 8 → (completeFrame (finalized s)).bytec = 0 ∧ (completeFrame (finalized s)).complete = true) := by
  obtain ⟨hnone, -, -⟩ | ⟨hfull, -⟩ | ⟨-, hbelow, hf⟩ | ⟨-, hlast, hf⟩ := framed_cases s
  · omega
  · omega
  · rw [hf]
    exact ⟨rfl, rfl, fun _ => rfl, fun hlast => by omega⟩
  · rw [hf]
    exact ⟨rfl, rfl, fun hbelow => by omega, fun _ => ⟨rfl, rfl⟩⟩

/-- Settles O27: the two cases of the framing part with a partial byte and room, below the ninth slot and at it; the slot
reads as `storeChoice` has it. -/
theorem stbFinalizesThePartialByte : Obligations.StbFinalizesThePartialByte := by
  intro s h hb hroom
  obtain ⟨p, a, k, b, heq⟩ := exec_stb_framed h
  obtain ⟨hacc, hbitc, hbelow, hlast⟩ := framed_partial hb hroom
  have hslot : memGet (completeFrame (finalized s)).frame s.bytec.toNat =
      if storeChoice s then s.acc else memGet s.frame s.bytec.toNat := by
    rw [completeFrame_frame, memGet_finalized_cursor hb hroom]
  refine ⟨_, heq, hacc, hbitc, hbelow, hlast, ?_⟩
  simp only [memRead_eq hroom, hslot, Except.ok.injEq]
  refine ⟨fun hkeep => ?_, fun hstore => ?_, ?_, fun a hne => memRead_congr ?_⟩
  · simp [storeChoice, hkeep]
  · simp [storeChoice, hstore]
  · cases storeChoice s
    · exact .inl rfl
    · exact .inr rfl
  · rw [completeFrame_frame, memGet_finalized_other hne]

/-- A delivered strobe at a full frame leaves the accumulator and the slots as they are. -/
theorem exec_stb_full {s : State} (h : StbDelivered s) (hfull : s.bytec.toNat = 9) : ∃ p a k b,
    exec .stb s = .next { s with
      complete := true, logp := true, bytec := 0, clkArmed := false, stbArmed := false
      pending := p, active := a, ticks := k, btnDrive := b } := by
  obtain ⟨p, a, k, b, heq⟩ := exec_stb_framed h
  rw [finalized_none (.inr hfull.ge), completeFrame_full hfull] at heq
  exact ⟨p, a, k, b, heq⟩

/-- A strobe that finds or makes the frame full completes it. -/
theorem framed_of_fillsFrame {s : State} (h : FillsFrame s) : ∃ acc bitc m n, completeFrame (finalized s) = { s with
    acc := acc, bitc := bitc, frame := m, draws := n
    bytec := 0, complete := true, logp := true, clkArmed := false, stbArmed := false } := by
  have hfill : s.bytec.toNat = 9 ∨ (s.bytec.toNat = 8 ∧ 0 < s.bitc.toNat) := h
  obtain ⟨hnone, hshort, -⟩ | ⟨-, hf⟩ | ⟨-, hbelow, -⟩ | ⟨-, -, hf⟩ := framed_cases s
  · omega
  · exact ⟨_, _, _, _, hf⟩
  · omega
  · exact ⟨_, _, _, _, hf⟩

/-- A delivered strobe that fills the frame completes it and detaches both sources (R88). -/
theorem exec_stb_fillsFrame {s : State} (h : StbDelivered s) (hfill : FillsFrame s) :
    ∃ t, exec .stb s = .next t ∧ t.enabled = true ∧ t.complete = true ∧ t.logp = true ∧ t.bytec = 0 ∧
      t.clkArmed = false ∧ t.stbArmed = false ∧ t.out = s.out := by
  obtain ⟨-, hen, -⟩ := id h
  obtain ⟨p, a, k, b, heq⟩ := exec_stb_framed h
  obtain ⟨acc, bitc, m, n, hf⟩ := framed_of_fillsFrame hfill
  rw [hf] at heq
  exact ⟨_, heq, hen, rfl, rfl, rfl, rfl, rfl, rfl⟩

/-- Settles O28: the completing framing part sets these fields, and the button tick writes none of them. -/
theorem stbCompletesTheFullFrame : Obligations.StbCompletesTheFullFrame := by
  intro s h hfill
  obtain ⟨t, hexec, -, hdone⟩ := exec_stb_fillsFrame h hfill
  exact ⟨t, hexec, hdone⟩

/-- Settles O29: with no bits to finalize and no full frame to complete, only the button tick is left. -/
theorem stbWithoutPendingBitsKeepsFraming : Obligations.StbWithoutPendingBitsKeepsFraming := by
  intro s h hb hroom
  obtain ⟨p, a, k, b, heq⟩ := exec_stb_framed h
  rw [finalized_none (.inl (by simp [hb])), completeFrame_short (by omega)] at heq
  exact ⟨_, heq, sameFraming_refl s⟩

/-! ### A frame held between its completion and its POLL (R90) -/

/-- A POLL that finds a complete frame consumes it. -/
theorem exec_poll_complete {s : State} (hen : s.enabled = true) (hc : s.complete = true) :
    exec .poll s = consumeFrame s := by
  rw [exec, execPoll, if_pos hen, if_pos hc]

theorem request_keeps_framing (id : CmdId) (s : State) :
    (request id s).enabled = s.enabled ∧ SameFraming s (request id s) := by
  cases hen : s.enabled
  · obtain ⟨o, n, heq, -⟩ := request_off id hen
    rw [heq]
    exact ⟨hen, sameFraming_refl s⟩
  · obtain ⟨o, n, heq, -⟩ := request_on id hen
    rw [heq]
    exact ⟨hen, sameFraming_refl s⟩

/-- While the block is enabled with both sources detached, only POLL and EN 0 write the framing state. -/
theorem exec_detached {i : Instr} {s : State} (hen : s.enabled = true) (hclk : s.clkArmed = false)
    (hstb : s.stbArmed = false) (hi : i ≠ .poll ∧ i ≠ .en false) :
    ∃ t, exec i s = .next t ∧ t.enabled = true ∧ SameFraming s t := by
  have hrequest : ∀ id, (request id s).enabled = true ∧ SameFraming s (request id s) := fun id =>
    (request_keeps_framing id s).imp_left fun h => h.trans hen
  cases i with
  | clk d => exact ⟨s, by rw [exec, execClk, hclk, deliver_detached], hen, sameFraming_refl s⟩
  | stb => exact ⟨s, by rw [exec, execStb, hstb, deliver_detached], hen, sameFraming_refl s⟩
  | poll => exact absurd rfl hi.1
  | en b =>
    cases b with
    | false => exact absurd rfl hi.2
    | true => exact ⟨s, congrArg _ (enableGate_on hen), hen, sameFraming_refl s⟩
  | req id =>
    cases hid : legalId id
    · exact ⟨markRefused s, by simp [exec, execReq, hid], hen, sameFraming_refl s⟩
    · exact ⟨request id s, by simp [exec, execReq, hid], hrequest id⟩
  | reqPower b => exact ⟨_, rfl, hrequest _⟩
  | reqOneCup => exact ⟨_, rfl, hrequest _⟩
  | reqTwoCups => exact ⟨_, rfl, hrequest _⟩
  | reqHotWater => exact ⟨_, rfl, hrequest _⟩

theorem applyEvents_detached {is : List Instr} {s : State} (hen : s.enabled = true) (hclk : s.clkArmed = false)
    (hstb : s.stbArmed = false) (his : ∀ i ∈ is, i ≠ .poll ∧ i ≠ .en false) :
    ∃ t, applyEvents is s = .next t ∧ t.enabled = true ∧ SameFraming s t := by
  induction is generalizing s with
  | nil => exact ⟨s, rfl, hen, sameFraming_refl s⟩
  | cons i is ih =>
    obtain ⟨hi, his⟩ := List.forall_mem_cons.mp his
    obtain ⟨t, hexec, hent, hst⟩ := exec_detached hen hclk hstb hi
    obtain ⟨hclkt, hstbt, -⟩ := id hst
    obtain ⟨u, hrun, henu, htu⟩ := ih hent (hclkt.trans hclk) (hstbt.trans hstb) his
    exact ⟨u, by rw [applyEvents_cons, hexec, andThen_next, hrun], henu, sameFraming_trans hst htu⟩

/-- Settles O30: the strobe leaves the bits and detaches both sources, so until a POLL or EN 0 nothing writes them. -/
theorem stbFullFrameKeepsPendingBits : Obligations.StbFullFrameKeepsPendingBits := by
  intro s h hb hfull
  obtain ⟨-, hen, -⟩ := id h
  obtain ⟨p, a, k, b, heq⟩ := exec_stb_full h hfull
  obtain ⟨t, hexec, hent, hclk, hstb, hacc, hbitc, hframe, hc⟩ : ∃ t, exec .stb s = .next t ∧ t.enabled = true ∧
      t.clkArmed = false ∧ t.stbArmed = false ∧ t.acc = s.acc ∧ t.bitc = s.bitc ∧ t.frame = s.frame ∧ t.complete = true :=
    ⟨_, heq, hen, rfl, rfl, rfl, rfl, rfl, rfl⟩
  refine ⟨t, hexec, hacc, hbitc, hframe, hc, fun is his => ?_⟩
  obtain ⟨u, hrun, henu, -, -, haccu, hbitcu, -, -, hcu, -⟩ := applyEvents_detached hent hclk hstb his
  refine ⟨u, hrun, haccu.trans hacc, hbitcu.trans hbitc, henu, hcu.trans hc, ?_, ?_⟩
  · exact ⟨_, (exec_poll_complete henu (hcu.trans hc)).trans (consumeFrame_eq u), rfl, rfl⟩
  · exact ⟨_, disableGate_on henu, rfl, rfl⟩

/-! ### The completion count (R91) -/

/-- Both sources deliver and no frame is complete; the cursors stand at these counts, a full frame at every count from 9 on. -/
structure Capturing (s : State) (slots bits : Nat) : Prop where
  clk : ClkDelivered s
  stb : StbDelivered s
  notComplete : s.complete = false
  bytec : s.bytec.toNat = min slots 9
  bitc : s.bitc.toNat = bits

theorem Capturing.fillsFrame_iff {s : State} {slots bits : Nat} (h : Capturing s slots bits) :
    FillsFrame s ↔ 9 ≤ slots ∨ (slots = 8 ∧ 0 < bits) := by
  rw [FillsFrame, h.bytec, h.bitc]
  omega

/-- A clock edge counts one bit, and a slot at the eighth. -/
theorem Capturing.after_clk {s t : State} {slots bits : Nat} (h : Capturing s slots bits) {d : BitVec 1}
    (hexec : exec (.clk d) s = .next t) : if bits = 7 then Capturing t (slots + 1) 0 else Capturing t slots (bits + 1) := by
  obtain ⟨hclk, hstb, hc, hbytec, hbitc⟩ := h
  rw [exec_clk_delivered hclk] at hexec
  obtain ⟨hlt, heq⟩ | ⟨h7, hroom, heq⟩ | ⟨h7, hfull, heq⟩ := clockHandler_cases d s <;> cases heq.symm.trans hexec
  · rw [if_neg (by omega)]
    exact ⟨hclk, hstb, hc, hbytec, by rw [toNat_succ (by omega), hbitc]⟩
  · rw [if_pos (by omega)]
    exact ⟨hclk, hstb, hc, by rw [toNat_succ (by omega)]; omega, rfl⟩
  · rw [if_pos (by omega)]
    exact ⟨hclk, hstb, hc, by show s.bytec.toNat = _; omega, rfl⟩

/-- A strobe that completes no frame counts a slot where bits are pending. -/
theorem Capturing.after_stb {s t : State} {slots bits : Nat} (h : Capturing s slots bits) (hfill : ¬ FillsFrame s)
    (hexec : exec .stb s = .next t) : Capturing t (if 0 < bits then slots + 1 else slots) 0 := by
  rw [h.fillsFrame_iff] at hfill
  obtain ⟨hclk, hstb, hc, hbytec, hbitc⟩ := h
  obtain ⟨p, a, k, b, heq⟩ := exec_stb_framed hstb
  cases heq.symm.trans hexec
  obtain ⟨hnone, -, hf⟩ | ⟨hfull, -⟩ | ⟨hb, hbelow, hf⟩ | ⟨hb, hlast, -⟩ := framed_cases s
  · rw [hf, if_neg (show ¬ 0 < bits by omega)]
    exact ⟨hclk, hstb, hc, hbytec, by show s.bitc.toNat = 0; omega⟩
  · omega
  · rw [hf, if_pos (show 0 < bits by omega)]
    exact ⟨hclk, hstb, hc, by rw [toNat_succ (by omega)]; omega, rfl⟩
  · omega

theorem ne_poll_and_ne_disable_of_interrupt {i : Instr} (h : contextOf i = .interrupt) : i ≠ .poll ∧ i ≠ .en false := by
  cases i with
  | clk d => exact ⟨nofun, nofun⟩
  | stb => exact ⟨nofun, nofun⟩
  | _ => exact nomatch h

/-- A strobe that fills the frame completes it, and no later edge is delivered. -/
theorem complete_after_filling_stb {s t : State} {is : List Instr} (h : StbDelivered s) (hfill : FillsFrame s)
    (his : ∀ i ∈ is, contextOf i = .interrupt) (hrun : applyEvents (.stb :: is) s = .next t) : t.complete = true := by
  obtain ⟨u, hexec, hen, hc, -, -, hclk, hstb, -⟩ := exec_stb_fillsFrame h hfill
  obtain ⟨v, hrest, -, -, -, -, -, -, -, hcv, -⟩ :=
    applyEvents_detached hen hclk hstb fun i hi => ne_poll_and_ne_disable_of_interrupt (his i hi)
  rw [applyEvents_cons, hexec, andThen_next, hrest] at hrun
  cases hrun
  exact hcv.trans hc

theorem strobeFindsNine_stb_of_filling {slots bits : Nat} (is : List Instr) (h : 9 ≤ slots ∨ (slots = 8 ∧ 0 < bits)) :
    strobeFindsNine (.stb :: is) slots bits = true := by
  rw [strobeFindsNine]
  obtain hfull | ⟨rfl, hb⟩ := h
  · rw [if_pos hfull]
  · rw [if_neg (by decide), if_pos hb, if_pos rfl]

theorem strobeFindsNine_stb_of_not_filling {slots bits : Nat} (is : List Instr)
    (h : ¬ (9 ≤ slots ∨ (slots = 8 ∧ 0 < bits))) :
    strobeFindsNine (.stb :: is) slots bits = strobeFindsNine is (if 0 < bits then slots + 1 else slots) 0 := by
  rw [strobeFindsNine, if_neg (by omega)]
  by_cases hb : 0 < bits
  · rw [if_pos hb, if_neg (by omega), if_pos hb]
  · rw [if_neg hb, if_neg hb, Nat.eq_zero_of_not_pos hb]

theorem Capturing.complete_iff_strobeFindsNine {is : List Instr} {s t : State} {slots bits : Nat}
    (h : Capturing s slots bits) (his : ∀ i ∈ is, contextOf i = .interrupt) (hrun : applyEvents is s = .next t) :
    t.complete = true ↔ strobeFindsNine is slots bits = true := by
  induction is generalizing s slots bits with
  | nil =>
    cases hrun
    simp [strobeFindsNine, h.notComplete]
  | cons i is ih =>
    obtain ⟨hi, hedges⟩ := List.forall_mem_cons.mp his
    obtain ⟨u, hexec, hrest⟩ := andThen_eq_next.mp hrun
    cases i with
    | clk d =>
      have hu := h.after_clk hexec
      rw [strobeFindsNine]
      split at hu
      · next h7 => rw [if_pos h7, ih hu hedges hrest]
      · next h7 => rw [if_neg h7, ih hu hedges hrest]
    | stb =>
      by_cases hfill : FillsFrame s
      · exact iff_of_true (complete_after_filling_stb h.stb hfill hedges hrun)
          (strobeFindsNine_stb_of_filling is (h.fillsFrame_iff.mp hfill))
      · rw [strobeFindsNine_stb_of_not_filling is (mt h.fillsFrame_iff.mpr hfill),
          ih (h.after_stb hfill hexec) hedges hrest]
    | _ => exact nomatch hi

/-- Settles O36: the cursors stand at the counts that `strobeFindsNine` starts from. -/
theorem frameCompletesAtAStrobeWithNineSlots : Obligations.FrameCompletesAtAStrobeWithNineSlots := by
  intro is s t hclk hstb hbytec hc his hrun
  obtain ⟨-, hen, hloss⟩ := id hstb
  have hstart : Capturing s s.bytec.toNat s.bitc.toNat := ⟨⟨hclk, hen, hloss⟩, hstb, hc, by omega, rfl⟩
  exact hstart.complete_iff_strobeFindsNine his hrun

/-! ### Nine bytes from the clock line to FRAME_OUT (R44, R45, R83, R88, R99, R100) -/

/-- The eight samples of a byte, least significant first, assemble it. -/
theorem insertBits_byte (v : Byte) :
    insertBit (insertBits 0 0 ((List.range 7).map fun k => v.extractLsb' k 1)) 7 (v.extractLsb' 7 1) = v := by
  ext i hi
  interval_cases i <;> simp [insertBits, insertBit, List.range, List.range.loop]

theorem applyEvents_bitsEvents {s : State} (v : Byte) (h : ClkDelivered s) (hb : s.bitc = 0) (ha : s.acc = 0)
    (hroom : s.bytec.toNat < 9) : applyEvents (bitsEvents 8 v) s =
      .next { s with bytec := s.bytec + 1, frame := memSet s.frame s.bytec.toNat v } := by
  have hrun := applyEvents_clk_byte ((List.range 7).map fun k => v.extractLsb' k 1) (v.extractLsb' 7 1) h rfl hb ha hroom
  rwa [insertBits_byte] at hrun

/-- Bytes clocked in where there is room for them go to the slots from the cursor on, and leave the slots below it. -/
theorem applyEvents_bytes (vs : List Byte) {s : State} (h : ClkDelivered s) (hb : s.bitc = 0) (ha : s.acc = 0)
    (hroom : s.bytec.toNat + vs.length ≤ 9) : ∃ m, applyEvents (vs.flatMap (bitsEvents 8)) s =
      .next { s with bytec := s.bytec + BitVec.ofNat 4 vs.length, frame := m } ∧
      (∀ j, j < s.bytec.toNat → memGet m j = memGet s.frame j) ∧
      ∀ (j : Nat) (hj : j < vs.length), memGet m (s.bytec.toNat + j) = vs[j] := by
  induction vs generalizing s with
  | nil => exact ⟨s.frame, by simp, fun _ _ => rfl, nofun⟩
  | cons v vs ih =>
    rw [List.length_cons] at hroom
    have hcursor : (s.bytec + 1).toNat = s.bytec.toNat + 1 := toNat_succ (by omega)
    have hlen : s.bytec + 1 + BitVec.ofNat 4 vs.length = s.bytec + BitVec.ofNat 4 (vs.length + 1) := by
      rw [BitVec.ofNat_add, BitVec.add_assoc, BitVec.add_comm 1]; rfl
    obtain ⟨m, hrun, hbelow, hslots⟩ :=
      ih (s := { s with bytec := s.bytec + 1, frame := memSet s.frame s.bytec.toNat v }) h hb ha
        (by show (s.bytec + 1).toNat + _ ≤ 9; omega)
    rw [hcursor] at hbelow hslots
    refine ⟨m, ?_, fun j hj => ?_, fun j hj => ?_⟩
    · rw [List.flatMap_cons, applyEvents_append, applyEvents_bitsEvents v h hb ha (by omega), andThen_next, hrun,
        List.length_cons, ← hlen]
    · rw [hbelow j (by omega), memGet_memSet_other _ _ (by omega)]
    · cases j with
      | zero => rw [Nat.add_zero, hbelow _ (by omega), memGet_memSet_same]; rfl
      | succ j =>
        rw [show s.bytec.toNat + (j + 1) = s.bytec.toNat + 1 + j by omega]
        exact hslots j (by simpa using hj)

/-- The 72 clock edges of a frame fill the empty buffer with its bytes in order. -/
theorem applyEvents_expand_frame {s : State} (bytes : Frame) (h : ClkDelivered s) (hb : s.bitc = 0) (ha : s.acc = 0)
    (hbytec : s.bytec = 0) : ∃ m,
    applyEvents (expand (.frame bytes)) s = .next { s with bytec := 9, frame := m } ∧ frameBytes m = bytes := by
  have hlen : bytes.toList.length = 9 := bytes.length_toList
  obtain ⟨m, hrun, -, hslots⟩ := applyEvents_bytes bytes.toList h hb ha (by simp [hbytec, hlen])
  rw [hlen, hbytec] at hrun
  refine ⟨m, hrun, Vector.ext fun i hi => (frameBytes_get m ⟨i, hi⟩).trans ?_⟩
  simpa [hbytec] using (hslots i (by omega)).trans (Vector.getElem_toList _)

/-- Settles O42: the clocked bytes fill the slots in order, the strobe completes that frame, and the POLL delivers it. -/
theorem nineBytesAreDeliveredInOrder : Obligations.NineBytesAreDeliveredInOrder := by
  intro s bytes h harm hb ha hbytec
  obtain ⟨-, hen, hloss⟩ := id h
  obtain ⟨m, hclocked, hbytes⟩ := applyEvents_expand_frame bytes h hb ha hbytec
  obtain ⟨p, a, k, b, hstb⟩ := exec_stb_full (s := { s with bytec := 9, frame := m }) ⟨harm, hen, hloss⟩ rfl
  obtain ⟨t, hstb, hent, hc, hlogp, hzero, hframe, hout⟩ : ∃ t, exec .stb { s with bytec := 9, frame := m } = .next t ∧
      t.enabled = true ∧ t.complete = true ∧ t.logp = true ∧ t.bytec = 0 ∧ t.frame = m ∧ t.out = s.out :=
    ⟨_, hstb, hen, rfl, rfl, rfl, rfl, rfl⟩
  have hrun : applyEvents (expand (.frame bytes) ++ [.stb, .poll]) s = consumeFrame t := by
    rw [applyEvents_append, hclocked, andThen_next, applyEvents_cons, hstb, andThen_next, applyEvents_cons,
      exec_poll_complete hent hc, consumeFrame_eq]
    rfl
  refine ⟨_, hrun.trans (consumeFrame_eq t), ?_, rfl, rfl, rfl, rfl, hzero, rfl, rfl, fun i hi => ?_⟩
  · simp [hout, hframe, hbytes, hlogp]
  · rw [memRead_eq hi, memGet_zeroed, if_pos hi]

end Sys2Proof.Machine

/-! THEOREMS. The polling tick (41_frame_consumer R96 to R100). -/

namespace Sys2Proof.Machine

theorem exec_poll_of_disabled {s : State} (hen : s.enabled = false) : exec .poll s = .next s := by
  simp [exec, execPoll, hen]

theorem exec_poll_of_not_complete {s : State} (hc : s.complete = false) : exec .poll s = .next s := by
  simp [exec, execPoll, hc]

/-- Settles O37: the two tests of a POLL, each of which leaves the state as it is when it fails. -/
theorem pollWithoutAFrameDoesNothing : Obligations.PollWithoutAFrameDoesNothing := by
  rintro s (hen | hc)
  · exact exec_poll_of_disabled hen
  · exact exec_poll_of_not_complete hc

/-- Settles O38: the consume sequence reads the nine slots before it zeroes them. -/
theorem pollDeliversTheFrame : Obligations.PollDeliversTheFrame := by
  intro s hen hc
  refine ⟨frameBytes s.frame, _, fun i => ?_, (exec_poll_complete hen hc).trans (consumeFrame_eq s), rfl, fun i hi => ?_⟩
  · rw [memRead_eq i.isLt, frameBytes_get]
  · rw [memRead_eq hi, memGet_zeroed, if_pos hi]

/-- Whether a POLL consumes a frame or not, it leaves a state that is disabled or has no complete frame. -/
theorem disabled_or_not_complete_of_exec_poll {s t : State} (h : exec .poll s = .next t) :
    t.enabled = false ∨ t.complete = false := by
  cases hen : s.enabled
  · cases (exec_poll_of_disabled hen).symm.trans h
    exact .inl hen
  · cases hc : s.complete
    · cases (exec_poll_of_not_complete hc).symm.trans h
      exact .inr hc
    · cases ((exec_poll_complete hen hc).trans (consumeFrame_eq s)).symm.trans h
      exact .inr rfl

/-- Settles O39: the first POLL leaves no frame that the second could consume. -/
theorem secondPollDoesNothing : Obligations.SecondPollDoesNothing := by
  intro s t h
  exact pollWithoutAFrameDoesNothing t (disabled_or_not_complete_of_exec_poll h)

end Sys2Proof.Machine

/-! THEOREMS. The button sequencer (42_button_sequencer R106 to R111, 70_reset R175): the strobe tick, the requests, and the
timeline of a press. -/

namespace Sys2Proof.Machine

/-! ### The strobe tick (R108 to R110) -/

/-- The framing part of a strobe leaves the button state to the tick. -/
theorem framed_sameButton (s : State) : SameButton s (completeFrame (finalized s)) := by
  obtain ⟨-, -, hf⟩ | ⟨-, hf⟩ | ⟨-, -, hf⟩ | ⟨-, -, hf⟩ := framed_cases s <;> rw [hf] <;> exact ⟨rfl, rfl, rfl, rfl⟩

/-- Settles O31: the tick finds the button state as it was before the framing part, and starts a press or is idle. -/
theorem stbStartsThePress : Obligations.StbStartsThePress := by
  intro s h ha
  obtain ⟨hp, hact, ht, hdrive⟩ := framed_sameButton s
  refine ⟨_, exec_stb_delivered h, fun hpend => ?_, fun hnone => ?_⟩
  · rw [buttonTick_start (hact.trans ha) (hp ▸ hpend)]
    exact ⟨rfl, rfl, rfl, hp⟩
  · rw [buttonTick_idle (hact.trans ha) (hp.trans hnone)]
    exact ⟨hp, hact, ht, hdrive⟩

/-- Settles O32: the tick counts below 10, and releases at 10. -/
theorem stbCountsAndEndsThePress : Obligations.StbCountsAndEndsThePress := by
  intro s h ha ht
  obtain ⟨hp, hact, hticks, hdrive⟩ := framed_sameButton s
  have hk : (s.ticks + 1).toNat = s.ticks.toNat + 1 := toNat_succ (by omega)
  refine ⟨_, exec_stb_delivered h, ?_⟩
  rcases Nat.lt_or_ge s.ticks.toNat 10 with hlt | hge
  · rw [buttonTick_count (hact.trans ha) (hticks ▸ hlt), hticks]
    exact ⟨hk, fun _ => ⟨hact.trans ha, hp, hdrive⟩, fun hover => by omega⟩
  · rw [buttonTick_release (hact.trans ha) (hticks ▸ Nat.le_antisymm ht hge), hticks]
    exact ⟨hk, fun hunder => by omega, fun _ => ⟨rfl, rfl, rfl⟩⟩

/-! ### The timeline of a press (R111) -/

/-- A strobe is delivered and its framing part has no effect (R89), so that it is a button tick alone. -/
abbrev TicksOnly (s : State) : Prop := StbDelivered s ∧ s.bitc = 0 ∧ s.bytec.toNat < 9

theorem exec_stb_of_ticksOnly {s : State} (h : TicksOnly s) : exec .stb s = .next (buttonTick s) := by
  obtain ⟨hstb, hb, hroom⟩ := h
  rw [exec_stb_delivered hstb, finalized_none (.inl (by simp [hb])), completeFrame_short (by omega)]

/-- Strobes of a press that leave the counter at 10 or below count, and change nothing else. -/
theorem applyEvents_stb_of_press {s : State} {n : Nat} {k : BitVec 4} (h : TicksOnly s) (ha : s.active = true)
    (hk : k.toNat = s.ticks.toNat + n) (hle : k.toNat ≤ 10) :
    applyEvents (List.replicate n .stb) s = .next { s with ticks := k } := by
  induction n generalizing s with
  | zero => rw [BitVec.eq_of_toNat_eq hk]; rfl
  | succ n ih =>
    have hnext : (s.ticks + 1).toNat = s.ticks.toNat + 1 := toNat_succ (by omega)
    rw [List.replicate_succ, applyEvents_cons, exec_stb_of_ticksOnly h, buttonTick_count ha (by omega), andThen_next,
      ih (s := { s with ticks := s.ticks + 1 }) h ha (by rw [hnext]; omega)]

/-- The strobes that are left of a press end it. -/
theorem applyEvents_stb_to_release {s : State} (h : TicksOnly s) (ha : s.active = true) (ht : s.ticks.toNat ≤ 10) :
    applyEvents (List.replicate (11 - s.ticks.toNat) .stb) s =
      .next { s with ticks := 11, active := false, pending := 0, btnDrive := false } := by
  have hten : (10 : BitVec 4).toNat = s.ticks.toNat + (10 - s.ticks.toNat) := (Nat.add_sub_of_le ht).symm
  rw [show 11 - s.ticks.toNat = 10 - s.ticks.toNat + 1 by omega, List.replicate_succ', applyEvents_append,
    applyEvents_stb_of_press h ha hten le_rfl, andThen_next, applyEvents_cons, exec_stb_of_ticksOnly (by exact h),
    buttonTick_release (by exact ha) rfl]
  rfl

/-- The first strobe with a command pending and the button IDLE starts the press; the strobes after it are its own. -/
theorem applyEvents_stb_of_idle {s : State} (n : Nat) (h : TicksOnly s) (ha : s.active = false) (hp : s.pending ≠ 0) :
    applyEvents (List.replicate (n + 1) .stb) s =
      applyEvents (List.replicate n .stb) { s with active := true, ticks := 0, btnDrive := true } := by
  rw [List.replicate_succ, applyEvents_cons, exec_stb_of_ticksOnly h, buttonTick_start ha hp, andThen_next]

/-- Settles O34: the first strobe starts the press, the next ten count, and the one after them releases. -/
theorem pressLastsTenSubsequentTicks : Obligations.PressLastsTenSubsequentTicks := by
  intro s hstb hb hroom ha hp
  have h : TicksOnly s := ⟨hstb, hb, hroom⟩
  refine ⟨fun k hk => ?_, ?_⟩
  · have hval : (BitVec.ofNat 4 k).toNat = k := Nat.mod_eq_of_lt (by omega)
    rw [applyEvents_stb_of_idle k h ha hp,
      applyEvents_stb_of_press (k := BitVec.ofNat 4 k) (by exact h) rfl (by rw [hval]; simp) (by omega)]
    exact ⟨_, rfl, rfl, hval, rfl, rfl⟩
  · have hrelease := applyEvents_stb_to_release (s := { s with active := true, ticks := 0, btnDrive := true }) h rfl
      (Nat.zero_le 10)
    exact ⟨_, (applyEvents_stb_of_idle 11 h ha hp).trans hrelease, rfl, rfl, rfl, rfl⟩

/-! ### The requests (R106, R107, 43_enabled_gate R124 to R128) -/

theorem legalId_of_range {id : CmdId} (hmin : 1 ≤ id.toNat) (hmax : id.toNat ≤ 6) : legalId id = true :=
  decide_eq_true ⟨hmin, hmax⟩

theorem exec_req_of_legal {id : CmdId} (h : legalId id = true) (s : State) : exec (.req id) s = .next (request id s) := by
  rw [exec, execReq, if_pos h]

/-- Every well-formed event of the command surface is a request, generic or with a fixed identifier. -/
theorem exec_commandSurface {i : Instr} (hwf : i.wf = true) (hparty : partyOf i = .commandSurface) (s : State) :
    ∃ id, exec i s = .next (request id s) := by
  cases i with
  | req id => exact ⟨id, exec_req_of_legal hwf s⟩
  | reqPower b => exact ⟨_, rfl⟩
  | reqOneCup => exact ⟨_, rfl⟩
  | reqTwoCups => exact ⟨_, rfl⟩
  | reqHotWater => exact ⟨_, rfl⟩
  | _ => exact nomatch hparty

theorem encode_req (id : CmdId) : encode (.req id) = 0x50 ||| id.setWidth 8 := by
  revert id; decide

/-- Settles O48: a legal identifier's request is accepted or rejected by the enabled flag alone. -/
theorem requestSetsPending : Obligations.RequestSetsPending := by
  intro s id hmin hmax
  rw [exec_req_of_legal (legalId_of_range hmin hmax)]
  refine ⟨encode_req id, fun hen => ?_, fun hen => ?_⟩
  · obtain ⟨o, n, heq, hrec⟩ := request_on id hen
    exact ⟨o, n, congrArg _ heq, hrec⟩
  · obtain ⟨o, n, heq, hrec⟩ := request_off id hen
    exact ⟨o, n, congrArg _ heq, hrec⟩

/-- An informative record is none of the normative ones, emitted or not. -/
theorem normative_of_mayRecord {s : State} {r : Record} {o : List Record} (hr : isNormative r = false)
    (h : MayRecord s r o) : normative o = normative s.out := by
  obtain rfl | rfl := h
  · rfl
  · simp [normative, hr]

/-- Settles O50: each such event is a request, and a request to a disabled block emits at most its rejection. -/
theorem requestsWhileDisabledAreRejected : Obligations.RequestsWhileDisabledAreRejected := by
  intro s i hen hwf hparty
  obtain ⟨id, hexec⟩ := exec_commandSurface hwf hparty s
  obtain ⟨o, n, heq, hrec⟩ := request_off id hen
  exact ⟨o, n, hexec.trans (congrArg _ heq), normative_of_mayRecord rfl hrec⟩

/-- Settles O53: the request leaves the press as it is, and the release clears whatever is pending. -/
theorem requestDuringAPressIsNeverPressed : Obligations.RequestDuringAPressIsNeverPressed := by
  intro s cmd hstb hb hroom ha ht hmin hmax
  obtain ⟨-, hen, -⟩ := id hstb
  obtain ⟨o, n, heq, -⟩ := request_on cmd hen
  have hexec := (exec_req_of_legal (legalId_of_range hmin hmax) s).trans (congrArg _ heq)
  have hrelease := applyEvents_stb_to_release (s := { s with pending := cmd, out := o, draws := n }) ⟨hstb, hb, hroom⟩ ha ht
  exact ⟨_, _, hexec, rfl, ha, rfl, hrelease, rfl, rfl, rfl⟩

end Sys2Proof.Machine

/-! THEOREMS. The enabled gate (43_enabled_gate R121 to R129): enabling, disabling, and the named requests. -/

namespace Sys2Proof.Machine

/-! ### EN 1 and EN 0 (R121 to R123) -/

theorem exec_enable_of_disabled {s : State} (hen : s.enabled = false) :
    exec (.en true) s = .next { s with btnDrive := false, enabled := true, clkArmed := true, stbArmed := true } :=
  congrArg _ (enableGate_off hen)

theorem exec_enable_of_enabled {s : State} (hen : s.enabled = true) : exec (.en true) s = .next s :=
  congrArg _ (enableGate_on hen)

theorem exec_disable_of_enabled {s : State} (hen : s.enabled = true) : exec (.en false) s = .next { s with
    enabled := false, clkArmed := false, stbArmed := false, btnDrive := false, pending := 0, active := false, ticks := 0
    complete := false, logp := false, acc := 0, bitc := 0, bytec := 0, frame := zeroed s.frame } :=
  disableGate_on hen

theorem exec_disable_of_disabled {s : State} (hen : s.enabled = false) : exec (.en false) s = .next s :=
  disableGate_off hen

/-- Settles O43: the two cases of EN 1. -/
theorem enableAttachesBothSources : Obligations.EnableAttachesBothSources :=
  fun _ => ⟨exec_enable_of_disabled, exec_enable_of_enabled⟩

/-- Settles O44: the two cases of EN 0, the first of which leaves the zeroed contents in slots 0 to 8. -/
theorem disableResetsEveryTransientField : Obligations.DisableResetsEveryTransientField := by
  refine fun s => ⟨fun hen => ⟨_, exec_disable_of_enabled hen, rfl, fun i hi => ?_⟩, exec_disable_of_disabled⟩
  rw [memRead_eq hi, memGet_zeroed, if_pos hi]

/-- EN 0 then EN 1: what EN 1 does not write stays as EN 0 left it. -/
theorem applyEvents_disable_enable {s : State} (hen : s.enabled = true) :
    applyEvents [.en false, .en true] s = .next { s with
      enabled := true, clkArmed := true, stbArmed := true, btnDrive := false, pending := 0, active := false, ticks := 0
      complete := false, logp := false, acc := 0, bitc := 0, bytec := 0, frame := zeroed s.frame } := by
  rw [applyEvents_cons, exec_disable_of_enabled hen, andThen_next, applyEvents_cons,
    exec_enable_of_disabled (by rfl), andThen_next]
  rfl

/-- Settles O45: EN 0 zeroes canonical contents to the empty list that reset has, and EN 1 then finds a disabled block. -/
theorem disableThenEnableIsFreshSetup : Obligations.DisableThenEnableIsFreshSetup := by
  intro s hen hwf
  have hempty : zeroed s.frame = State.reset.frame := zeroed_of_wf hwf
  exact ⟨_, _, applyEvents_disable_enable hen, exec_enable_of_disabled rfl,
    ⟨rfl, ⟨rfl, rfl, rfl, rfl, hempty, rfl, rfl, rfl⟩, rfl, rfl, rfl, rfl⟩, rfl, rfl, rfl, rfl, rfl, rfl⟩

/-- Settles O46: EN 1 stores nothing, and EN 0 only zeroes, below slot 9 and only in an enabled block. -/
theorem enFrame : Obligations.EnFrame := by
  intro s t b h
  cases b with
  | false =>
    cases hen : s.enabled
    · cases (exec_disable_of_disabled hen).symm.trans h
      exact ⟨rfl, rfl, ⟨rfl, rfl⟩, rfl, fun _ _ => rfl, nofun, fun _ _ _ => rfl⟩
    · cases (exec_disable_of_enabled hen).symm.trans h
      have hhigh (a : Nat) (ha : 9 ≤ a) : memGet (zeroed s.frame) a = memGet s.frame a :=
        (memGet_zeroed _ a).trans (if_neg (Nat.not_lt.mpr ha))
      exact ⟨rfl, rfl, ⟨rfl, rfl⟩, rfl, hhigh, nofun, fun _ => nofun⟩
  | true =>
    cases hen : s.enabled
    · cases (exec_enable_of_disabled hen).symm.trans h
      exact ⟨rfl, rfl, ⟨rfl, rfl⟩, rfl, fun _ _ => rfl,
        fun _ => ⟨rfl, rfl, rfl, rfl, rfl, rfl, rfl, rfl, fun _ => rfl⟩, nofun⟩
    · cases (exec_enable_of_enabled hen).symm.trans h
      exact ⟨rfl, rfl, ⟨rfl, rfl⟩, rfl, fun _ _ => rfl,
        fun _ => ⟨rfl, rfl, rfl, rfl, rfl, rfl, rfl, rfl, fun _ => rfl⟩, nofun⟩

/-! ### The named requests (R124 to R128) -/

/-- An event that is a request to an enabled block makes its identifier pending. -/
theorem exec_request_accepted {s : State} {i : Instr} {id : CmdId} (hexec : exec i s = .next (request id s))
    (hen : s.enabled = true) : ∃ o n, exec i s = .next { s with pending := id, out := o, draws := n } ∧
      MayRecord s (.logQueued id) o := by
  obtain ⟨o, n, heq, hrec⟩ := request_on id hen
  exact ⟨o, n, hexec.trans (congrArg _ heq), hrec⟩

/-- An event that is a request to a disabled block changes no element. -/
theorem exec_request_rejected {s : State} {i : Instr} {id : CmdId} (hexec : exec i s = .next (request id s))
    (hen : s.enabled = false) : ∃ o n, exec i s = .next { s with out := o, draws := n } ∧
      MayRecord s (.logRejected id) o := by
  obtain ⟨o, n, heq, hrec⟩ := request_off id hen
  exact ⟨o, n, hexec.trans (congrArg _ heq), hrec⟩

theorem exec_reqPower (b : Bool) (s : State) : exec (.reqPower b) s = .next (request 1 s) := rfl

theorem exec_reqOneCup (s : State) : exec .reqOneCup s = .next (request 4 s) := rfl

theorem exec_reqTwoCups (s : State) : exec .reqTwoCups s = .next (request 5 s) := rfl

theorem exec_reqHotWater (s : State) : exec .reqHotWater s = .next (request 3 s) := rfl

/-- Settles O49: each named request is the request of its legal identifier, whatever the operand of REQ_POWER. -/
theorem namedRequestsSetTheirIdentifier : Obligations.NamedRequestsSetTheirIdentifier := by
  intro s
  have hreq {i : Instr} {id : CmdId} (hid : legalId id = true) (hexec : exec i s = .next (request id s)) :
      exec i s = exec (.req id) s := hexec.trans (exec_req_of_legal hid s).symm
  have hpower b := exec_reqPower b s
  have hone := exec_reqOneCup s
  have htwo := exec_reqTwoCups s
  have hhot := exec_reqHotWater s
  refine ⟨rfl, rfl, rfl, rfl, rfl, fun b => hreq rfl (hpower b), hreq rfl hone, hreq rfl htwo, hreq rfl hhot,
    fun hen => ?_, fun hen => ?_⟩
  · exact ⟨fun b => exec_request_accepted (hpower b) hen, exec_request_accepted hone hen, exec_request_accepted htwo hen,
      exec_request_accepted hhot hen⟩
  · exact ⟨fun b => exec_request_rejected (hpower b) hen, exec_request_rejected hone hen, exec_request_rejected htwo hen,
      exec_request_rejected hhot hen⟩

end Sys2Proof.Machine

/-! THEOREMS. Refused words and lost edges (60_exceptions R137, R138, R140, R156): what writes the refused mark S13, when a
run ends well, and an edge on a detached source. -/

namespace Sys2Proof.Machine

/-! ### The refused mark (R26, R137, R138) -/

/-- A part of an event that leaves the refused mark as it finds it. -/
def KeepsMark (f : State → Result) : Prop := ∀ ⦃s t⦄, f s = .next t → t.refused = s.refused

/-- A part that always completes keeps the mark if its next state has it. -/
theorem KeepsMark.of_next {f : State → Result} {g : State → State} (hf : ∀ s, f s = .next (g s))
    (hg : ∀ s, (g s).refused = s.refused) : KeepsMark f := by
  intro s t h
  cases (hf s).symm.trans h
  exact hg s

theorem KeepsMark.deliver {f : State → Result} (hf : KeepsMark f) (armed : Bool) : KeepsMark (deliver armed f) := by
  intro s t h
  obtain ⟨n, hlost⟩ | ⟨-, -, n, hrun⟩ := deliver_cases armed f s
  · cases hlost.symm.trans h
    rfl
  · exact hf (s := { s with draws := n }) (hrun.symm.trans h)

theorem clockHandler_keepsMark (d : BitVec 1) : KeepsMark (clockHandler d) := by
  intro s t h
  obtain ⟨-, heq⟩ | ⟨-, -, heq⟩ | ⟨-, -, heq⟩ := clockHandler_cases d s <;> cases heq.symm.trans h <;> rfl

theorem framed_refused (s : State) : (completeFrame (finalized s)).refused = s.refused := by
  obtain ⟨-, -, hf⟩ | ⟨-, hf⟩ | ⟨-, -, hf⟩ | ⟨-, -, hf⟩ := framed_cases s <;> rw [hf]

theorem strobeHandler_keepsMark : KeepsMark strobeHandler :=
  .of_next strobeHandler_eq fun s => by rw [buttonTick_eq]; exact framed_refused s

theorem exec_poll_keepsMark : KeepsMark (exec .poll) := by
  intro s t h
  cases hen : s.enabled
  · cases (exec_poll_of_disabled hen).symm.trans h
    rfl
  · cases hc : s.complete
    · cases (exec_poll_of_not_complete hc).symm.trans h
      rfl
    · cases ((exec_poll_complete hen hc).trans (consumeFrame_eq s)).symm.trans h
      rfl

theorem exec_en_keepsMark (b : Bool) : KeepsMark (exec (.en b)) := by
  intro s t h
  cases b <;> cases hen : s.enabled
  · cases (exec_disable_of_disabled hen).symm.trans h
    rfl
  · cases (exec_disable_of_enabled hen).symm.trans h
    rfl
  · cases (exec_enable_of_disabled hen).symm.trans h
    rfl
  · cases (exec_enable_of_enabled hen).symm.trans h
    rfl

theorem request_refused (id : CmdId) (s : State) : (request id s).refused = s.refused := by
  cases hen : s.enabled
  · obtain ⟨o, n, heq, -⟩ := request_off id hen
    rw [heq]
  · obtain ⟨o, n, heq, -⟩ := request_on id hen
    rw [heq]

theorem request_keepsMark (id : CmdId) : KeepsMark fun s => .next (request id s) :=
  .of_next (fun _ => rfl) (request_refused id)

/-- No event that a word can spell writes the refused mark; a REQ with identifier 0 or 7 would (log 9). -/
theorem exec_keepsMark {i : Instr} (hwf : i.wf = true) : KeepsMark (exec i) := by
  cases i with
  | clk d => exact fun s _ h => (clockHandler_keepsMark d).deliver s.clkArmed h
  | stb => exact fun s _ h => strobeHandler_keepsMark.deliver s.stbArmed h
  | poll => exact exec_poll_keepsMark
  | en b => exact exec_en_keepsMark b
  | req id => exact .of_next (exec_req_of_legal hwf) (request_refused id)
  | reqPower b => exact request_keepsMark _
  | reqOneCup => exact request_keepsMark _
  | reqTwoCups => exact request_keepsMark _
  | reqHotWater => exact request_keepsMark _

/-- A run is good after one word exactly if it was before and the word spells an operation: a word that decodes is
well-formed, and any other sets the mark. -/
theorem applyWord_endsWell_iff {w : Byte} {s t : State} (h : applyWord w s = .next t) :
    endsWell t = true ↔ endsWell s = true ∧ ∃ i, decode w = .ok i := by
  cases hdec : decode w with
  | ok i =>
    obtain ⟨-, hwf⟩ := decode_eq_ok_iff.mp hdec
    have hmark : t.refused = s.refused := exec_keepsMark hwf ((applyWord_ok hdec s).symm.trans h)
    simp [endsWell, hmark]
  | error e =>
    cases (applyWord_error hdec s).symm.trans h
    simp [endsWell]

/-- Settles O13: a step waits, or applies one word, which ends unmarked only if it began so. -/
theorem refusedMarkIsSticky : Obligations.RefusedMarkIsSticky := by
  intro s t h hs
  obtain ⟨-, hwait⟩ | ⟨w, ws, -, hword⟩ := step_cases s
  · cases hwait.symm.trans h
    exact hs
  · by_contra ht
    obtain ⟨hbegan, -⟩ := (applyWord_endsWell_iff (hword.symm.trans h)).mp (by simpa [endsWell] using ht)
    simp [endsWell, hs] at hbegan

/-! ### The end of a run (R156) -/

/-- Settles O12: by induction on the words, each of which keeps the run good exactly if it decodes. -/
theorem runEndsWellIffNoWordRefused : Obligations.RunEndsWellIffNoWordRefused := by
  intro ws
  induction ws with
  | nil =>
    intro s t h
    cases h
    simp
  | cons w ws ih =>
    intro s u h
    obtain ⟨t, hw, hws⟩ := andThen_eq_next.mp h
    rw [ih t u hws, applyWord_endsWell_iff hw, List.forall_mem_cons, and_assoc]

/-! ### An edge on a detached source (R140) -/

/-- Settles O20: a detached source delivers nothing to its handler. -/
theorem edgesWhileDetachedAreLost : Obligations.EdgesWhileDetachedAreLost := by
  constructor
  · intro s d h
    rw [exec, execClk, h, deliver_detached]
  · intro s h
    rw [exec, execStb, h, deliver_detached]

end Sys2Proof.Machine

/-! THEOREMS. Reset (70_reset_and_hazards section 1, R166): the value of every element, and the invariants. -/

namespace Sys2Proof.Machine

/-- The frame buffer is empty at reset, so each slot is unlisted and reads 0x00 (R166, log 8). -/
theorem memRead_reset {i : Nat} (hi : i < 9) : memRead i State.reset = .ok 0x00 := by
  rw [memRead_eq hi]
  exact congrArg _ (memGet_nil i)

/-- Settles O15: the slots read 0x00 by `memRead_reset`, every other element is a field of the reset state. -/
theorem resetValues : Obligations.ResetValues :=
  ⟨rfl, rfl, rfl, rfl, rfl, fun _ => memRead_reset, rfl, rfl, rfl, rfl, rfl, rfl, rfl, rfl, rfl⟩

/-- Settles O16: counters and accumulator are zero, no source is armed, no frame complete, no press active, and the empty
frame buffer reads 0x00 everywhere. -/
theorem resetMeetsTheInvariants : Obligations.ResetMeetsTheInvariants where
  range := ⟨Nat.zero_le _, Nat.zero_le _, Nat.zero_le _⟩
  arming := ⟨rfl, nofun⟩
  completion := ⟨rfl, fun _ => rfl⟩
  zero := ⟨emptyBits_lt, fun _ i _ _ => memGet_nil i⟩
  button := ⟨rfl, nofun, fun _ => ⟨rfl, rfl, rfl⟩⟩
  disabled := fun _ => ⟨⟨rfl, rfl, rfl, rfl, rfl, rfl, rfl, rfl⟩, rfl, rfl, rfl, rfl⟩
  canonical := reset_frame_wf

end Sys2Proof.Machine

/-! THEOREMS. The words that spell an operation (30_encoding R67, R68). -/

namespace Sys2Proof.Machine

/-- Every instruction a word can spell, in the order of the words. -/
def operations : List Instr :=
  [.clk 0, .clk 1, .stb, .poll, .en false, .en true, .req 1, .req 2, .req 3, .req 4, .req 5, .req 6, .reqPower false,
    .reqPower true, .reqOneCup, .reqTwoCups, .reqHotWater]

theorem mem_operations_iff {i : Instr} : i ∈ operations ↔ i.wf = true := by
  constructor
  · revert i; decide
  · intro h
    cases i with
    | clk d => clear h; revert d; decide
    | en b => clear h; revert b; decide
    | req id => revert id; decide
    | reqPower b => clear h; revert b; decide
    | _ => decide

/-- Settles O3: a word decodes exactly if it is the word of one of the operations, and the list is those words. -/
theorem operationsAreTheSeventeenWords : Obligations.OperationsAreTheSeventeenWords := by
  intro w
  have hwords : operations.map encode =
      [0x10, 0x11, 0x20, 0x30, 0x40, 0x41, 0x51, 0x52, 0x53, 0x54, 0x55, 0x56, 0x60, 0x61, 0x70, 0x80, 0x90] := by decide
  rw [← hwords, List.mem_map]
  simp only [decode_eq_ok_iff, mem_operations_iff, and_comm]

end Sys2Proof.Machine

/-! THEOREMS. What each event leaves unchanged (the "State written" entries of 40_frame_assembler to 42_button_sequencer). -/

namespace Sys2Proof.Machine

/-! ### The clock edge (40_frame_assembler R81) -/

/-- A clock edge writes the draw count and, where it is handled, the accumulator, its cursor and, at an eighth bit with room,
one slot and the byte cursor. -/
theorem exec_clk_frame (d : BitVec 1) (s : State) : ∃ acc bitc m bytec n,
    exec (.clk d) s = .next { s with acc := acc, bitc := bitc, frame := m, bytec := bytec, draws := n } ∧
    (∀ a, a ≠ s.bytec.toNat → memGet m a = memGet s.frame a) ∧
    (s.bitc.toNat ≠ 7 ∨ 9 ≤ s.bytec.toNat → bytec = s.bytec ∧ m = s.frame) := by
  obtain ⟨n, hlost⟩ | ⟨-, -, n, hrun⟩ := deliver_cases s.clkArmed (clockHandler d) s
  · exact ⟨_, _, _, _, n, hlost, fun _ _ => rfl, fun _ => ⟨rfl, rfl⟩⟩
  · obtain ⟨-, heq⟩ | ⟨hlast, hroom, heq⟩ | ⟨-, -, heq⟩ := clockHandler_cases d { s with draws := n }
    · exact ⟨_, _, _, _, n, hrun.trans heq, fun _ _ => rfl, fun _ => ⟨rfl, rfl⟩⟩
    · exact ⟨_, _, _, _, n, hrun.trans heq, fun _ hne => memGet_memSet_other _ _ hne,
        fun hno => hno.elim (absurd hlast) fun hfull => absurd hroom (Nat.not_lt.mpr hfull)⟩
    · exact ⟨_, _, _, _, n, hrun.trans heq, fun _ _ => rfl, fun _ => ⟨rfl, rfl⟩⟩

/-- Settles O26: the fields a clock edge can write are those of `exec_clk_frame`. -/
theorem clkFrame : Obligations.ClkFrame := by
  intro s t d h
  obtain ⟨acc, bitc, m, bytec, n, heq, hother, hkept⟩ := exec_clk_frame d s
  cases heq.symm.trans h
  refine ⟨rfl, rfl, rfl, rfl, rfl, ⟨rfl, rfl, rfl, rfl⟩, rfl, rfl, ⟨rfl, rfl⟩, fun a hne => memRead_congr (hother a hne),
    fun hno => ?_⟩
  obtain ⟨hbytec, hframe⟩ := hkept hno
  exact ⟨hbytec, fun a => memRead_congr (congrArg (memGet · a) hframe)⟩

/-! ### The strobe edge (40_frame_assembler R84) -/

/-- What a strobe can do: change the draw count alone, or run the framing part and the button tick. -/
theorem exec_stb_cases (s : State) : (∃ n, exec .stb s = .next { s with draws := n }) ∨
    (s.stbArmed = true ∧ s.enabled = true ∧
      ∃ n, exec .stb s = .next (buttonTick (completeFrame (finalized { s with draws := n })))) :=
  (deliver_cases s.stbArmed strobeHandler s).imp_right fun ⟨harm, hen, n, hrun⟩ =>
    ⟨harm, hen, n, hrun.trans (strobeHandler_eq _)⟩

theorem framed_keeps_setting (s : State) : (completeFrame (finalized s)).enabled = s.enabled ∧
    (completeFrame (finalized s)).out = s.out ∧ SameSetting s (completeFrame (finalized s)) := by
  obtain ⟨-, -, hf⟩ | ⟨-, hf⟩ | ⟨-, -, hf⟩ | ⟨-, -, hf⟩ := framed_cases s <;> rw [hf] <;> exact ⟨rfl, rfl, rfl, rfl⟩

/-- With no partial byte to finalize the accumulator and the slots stay. -/
theorem framed_without_partial {s : State} (h : s.bitc.toNat = 0 ∨ 9 ≤ s.bytec.toNat) :
    (completeFrame (finalized s)).acc = s.acc ∧ (completeFrame (finalized s)).bitc = s.bitc ∧
    (completeFrame (finalized s)).frame = s.frame := by
  rw [finalized_none h]
  by_cases hfull : s.bytec.toNat = 9
  · rw [completeFrame_full hfull]
    exact ⟨rfl, rfl, rfl⟩
  · rw [completeFrame_short hfull]
    exact ⟨rfl, rfl, rfl⟩

/-- The flags and the armed bits are the same, and the byte cursor too if no bits were pending. -/
abbrev KeepsCompletion (s t : State) : Prop := t.complete = s.complete ∧ t.logp = s.logp ∧ t.clkArmed = s.clkArmed ∧
  t.stbArmed = s.stbArmed ∧ (s.bitc.toNat = 0 → t.bytec = s.bytec)

/-- A strobe writes the flags and the armed bits only where it completes the frame. -/
theorem exec_stb_completes_or_keeps {s t : State} (h : exec .stb s = .next t) : KeepsCompletion s t ∨
    (FillsFrame s ∧ t.complete = true ∧ t.clkArmed = false ∧ t.stbArmed = false) := by
  obtain ⟨n, hlost⟩ | ⟨-, -, n, hrun⟩ := exec_stb_cases s
  · cases hlost.symm.trans h
    exact .inl ⟨rfl, rfl, rfl, rfl, fun _ => rfl⟩
  · cases hrun.symm.trans h
    obtain ⟨p, a, k, b, htick⟩ := buttonTick_frame (completeFrame (finalized { s with draws := n }))
    rw [htick]
    obtain ⟨-, -, hf⟩ | ⟨hfull, hf⟩ | ⟨hb, -, hf⟩ | ⟨hb, hlast, hf⟩ := framed_cases { s with draws := n } <;> rw [hf]
    · exact .inl ⟨rfl, rfl, rfl, rfl, fun _ => rfl⟩
    · exact .inr ⟨.inl hfull, rfl, rfl, rfl⟩
    · exact .inl ⟨rfl, rfl, rfl, rfl, fun hnone => absurd hnone hb.ne'⟩
    · exact .inr ⟨.inr ⟨hlast, hb⟩, rfl, rfl, rfl⟩

/-- Settles O33: the framing part writes what its cases say, and the button tick the button state alone. -/
theorem stbFrame : Obligations.StbFrame := by
  intro s t h
  have hflags : ¬ FillsFrame s → KeepsCompletion s t := fun hno =>
    (exec_stb_completes_or_keeps h).resolve_right fun hfill => hno hfill.1
  obtain ⟨n, hlost⟩ | ⟨-, -, n, hrun⟩ := exec_stb_cases s
  · cases hlost.symm.trans h
    exact ⟨rfl, rfl, rfl, ⟨rfl, rfl⟩, fun _ _ => rfl, fun _ => ⟨rfl, rfl, fun _ => rfl⟩, hflags⟩
  · cases hrun.symm.trans h
    obtain ⟨p, a, k, b, htick⟩ := buttonTick_frame (completeFrame (finalized { s with draws := n }))
    rw [htick] at hflags ⊢
    obtain ⟨hen, hout, hsetting⟩ := framed_keeps_setting { s with draws := n }
    refine ⟨hen, framed_refused _, hout, hsetting, fun a hne => memRead_congr ?_, fun hnone => ?_, hflags⟩
    · rw [completeFrame_frame]
      exact memGet_finalized_other (s := { s with draws := n }) hne
    · obtain ⟨hacc, hbitc, hframe⟩ := framed_without_partial (s := { s with draws := n }) hnone
      exact ⟨hacc, hbitc, fun a => memRead_congr (congrArg (memGet · a) hframe)⟩

/-! ### The polling tick (41_frame_consumer R96) -/

/-- What a POLL can do: nothing, or consume the complete frame of an enabled block. -/
theorem exec_poll_cases (s : State) : ((s.enabled = false ∨ s.complete = false) ∧ exec .poll s = .next s) ∨
    (s.enabled = true ∧ s.complete = true ∧ exec .poll s = consumeFrame s) := by
  cases hen : s.enabled
  · exact .inl ⟨.inl rfl, exec_poll_of_disabled hen⟩
  · cases hc : s.complete
    · exact .inl ⟨.inr rfl, exec_poll_of_not_complete hc⟩
    · exact .inr ⟨rfl, rfl, exec_poll_complete hen hc⟩

/-- Settles O40: a consuming POLL stores by `zeroed` alone, which writes slots 0 to 8. -/
theorem pollFrame : Obligations.PollFrame := by
  intro s t h
  obtain ⟨-, hidle⟩ | ⟨hen, hc, hconsume⟩ := exec_poll_cases s
  · cases hidle.symm.trans h
    exact ⟨rfl, rfl, ⟨rfl, rfl, rfl, rfl⟩, rfl, ⟨rfl, rfl⟩, rfl, fun _ _ => rfl, fun _ _ => rfl⟩
  · cases (hconsume.trans (consumeFrame_eq s)).symm.trans h
    refine ⟨rfl, rfl, ⟨rfl, rfl, rfl, rfl⟩, rfl, ⟨rfl, rfl⟩, rfl, fun a ha => ?_, fun hno => ?_⟩
    · exact (memGet_zeroed _ a).trans (if_neg (Nat.not_lt.mpr ha))
    · simp [hen, hc] at hno

/-! ### The requests (42_button_sequencer R106) -/

/-- The one event no word spells, a REQ with identifier 0 or 7, sets the mark (log 9). -/
theorem exec_of_not_wf {i : Instr} (h : i.wf = false) (s : State) : exec i s = .next (markRefused s) := by
  cases i with
  | req id =>
    have hid : legalId id = false := h
    simp [exec, execReq, hid]
  | _ => exact nomatch h

/-- Settles O51: neither identifier is legal. -/
theorem illFormedRequestIsRefused : Obligations.IllFormedRequestIsRefused := by
  rintro s id (rfl | rfl)
  · exact exec_of_not_wf rfl s
  · exact exec_of_not_wf rfl s

/-- An informative record is appended or left out. -/
theorem out_prefix_of_mayRecord {s : State} {r : Record} {o : List Record} (h : MayRecord s r o) : s.out <+: o := by
  obtain rfl | rfl := h
  · exact List.prefix_rfl
  · exact List.prefix_append _ _

/-- A request writes the pending identifier (of an enabled block only), at most one informative record, and the draw count; an
ill-formed one the mark. -/
theorem exec_request_frame {i : Instr} (hparty : partyOf i = .commandSurface) (s : State) : ∃ p r o n,
    exec i s = .next { s with pending := p, refused := r, out := o, draws := n } ∧
    (s.enabled = false → p = s.pending) ∧ (i.wf = true → r = s.refused) ∧
    s.out <+: o ∧ normative o = normative s.out := by
  cases hwf : i.wf
  · exact ⟨_, _, _, _, exec_of_not_wf hwf s, fun _ => rfl, nofun, List.prefix_rfl, rfl⟩
  · obtain ⟨id, hreq⟩ := exec_commandSurface hwf hparty s
    obtain hen | hen := Bool.eq_false_or_eq_true s.enabled
    · obtain ⟨o, n, heq, hrec⟩ := exec_request_accepted hreq hen
      have hon : s.enabled = false → id = s.pending := fun hoff => nomatch hen.symm.trans hoff
      exact ⟨_, _, o, n, heq, hon, fun _ => rfl, out_prefix_of_mayRecord hrec, normative_of_mayRecord rfl hrec⟩
    · obtain ⟨o, n, heq, hrec⟩ := exec_request_rejected hreq hen
      exact ⟨_, _, o, n, heq, fun _ => rfl, fun _ => rfl, out_prefix_of_mayRecord hrec, normative_of_mayRecord rfl hrec⟩

/-- Settles O52: the fields a request can write are those of `exec_request_frame`. -/
theorem requestFrame : Obligations.RequestFrame := by
  intro s t i hparty h
  obtain ⟨p, r, o, n, heq, -, hmark, -, hnorm⟩ := exec_request_frame hparty s
  cases heq.symm.trans h
  exact ⟨rfl, sameFraming_refl s, rfl, rfl, rfl, ⟨rfl, rfl⟩, hmark, hnorm, fun _ => rfl⟩

end Sys2Proof.Machine

/-! THEOREMS. Edges and the handlers' guard (60_exceptions R141, R142), what a strobe reads of the pending command
(42_button_sequencer R112), and the event that every step answers (00_scope R11). -/

namespace Sys2Proof.Machine

/-! ### The edges (60_exceptions R141, R142) -/

theorem clk_or_stb_of_interrupt {i : Instr} (h : contextOf i = .interrupt) : (∃ d, i = .clk d) ∨ i = .stb := by
  cases i with
  | clk d => exact .inl ⟨d, rfl⟩
  | stb => exact .inr rfl
  | _ => exact nomatch h

/-- Behind the entry guard of a disabled block an edge changes at most the draw count, whatever its handler. -/
theorem deliver_of_disabled {s : State} (hen : s.enabled = false) (armed : Bool) (f : State → Result) :
    ∃ n, deliver armed f s = .next { s with draws := n } := by
  obtain hlost | ⟨-, hon, -⟩ := deliver_cases armed f s
  · exact hlost
  · exact nomatch hen.symm.trans hon

/-- Settles O21: the guard stops both handlers, and R29 ties the armed bits to the enabled flag. -/
theorem handlersReturnWhileDisabled : Obligations.HandlersReturnWhileDisabled := by
  refine ⟨fun s d hen => deliver_of_disabled hen s.clkArmed _, fun s hen => deliver_of_disabled hen s.stbArmed _,
    fun s hinv harm => ?_⟩
  obtain ⟨hsame, himp⟩ := hinv.arming
  obtain hclk | hstb := harm
  · exact (himp hclk).1
  · exact (himp (hsame.trans hstb)).1

/-- The state with another value of P_EDGE_LOSS. -/
def setEdgeLoss (b : Bool) (s : State) : State := { s with params := { s.params with edgeLoss := b } }

/-- A handler that completes, keeps the parameters, and does the same for every value of P_EDGE_LOSS. -/
def LossBlind (f : State → Result) : Prop :=
  ∀ s, ∃ t, f s = .next t ∧ t.params = s.params ∧ ∀ b, f (setEdgeLoss b s) = .next (setEdgeLoss b t)

theorem clockHandler_lossBlind (d : BitVec 1) : LossBlind (clockHandler d) := by
  intro s
  obtain ⟨hbit, heq⟩ | ⟨hlast, hroom, heq⟩ | ⟨hlast, hfull, heq⟩ := clockHandler_cases d s
  · exact ⟨_, heq, rfl, fun b => clockHandler_bit (s := setEdgeLoss b s) d hbit⟩
  · exact ⟨_, heq, rfl, fun b => clockHandler_append (s := setEdgeLoss b s) d hlast hroom⟩
  · exact ⟨_, heq, rfl, fun b => clockHandler_drop (s := setEdgeLoss b s) d hlast hfull⟩

theorem framed_setEdgeLoss (b : Bool) (s : State) :
    completeFrame (finalized (setEdgeLoss b s)) = setEdgeLoss b (completeFrame (finalized s)) := by
  have hfinal : finalized (setEdgeLoss b s) = setEdgeLoss b (finalized s) := by
    rw [finalized, finalized, apply_ite (setEdgeLoss b)]
    rfl
  rw [hfinal, completeFrame, completeFrame, apply_ite (setEdgeLoss b)]
  rfl

theorem strobeHandler_lossBlind : LossBlind strobeHandler := by
  intro s
  obtain ⟨-, -, hparams, -⟩ := framed_keeps_setting s
  refine ⟨_, strobeHandler_eq s, ?_, fun b => ?_⟩
  · rw [buttonTick_eq]
    exact hparams
  · rw [strobeHandler_eq, framed_setEdgeLoss, buttonTick_eq, buttonTick_eq (completeFrame (finalized s))]
    rfl

/-- An edge that may be lost either is, or does what the handler does where edges are never lost. -/
theorem LossBlind.lost_or_delivered {f : State → Result} (hf : LossBlind f) (armed : Bool) (s : State) :
    (∃ n, deliver armed f s = .next { s with draws := n }) ∨
    (∃ n t, deliver armed f (setEdgeLoss false { s with draws := n }) = .next t ∧
      deliver armed f s = .next { t with params := s.params }) := by
  refine (deliver_cases armed f s).imp_right fun ⟨harm, hen, n, hrun⟩ => ?_
  obtain ⟨t, ht, hparams, hblind⟩ := hf { s with draws := n }
  refine ⟨n, setEdgeLoss false t, ?_, ?_⟩
  · rw [harm, deliver_runs (by rfl) (by exact hen), hblind]
  · rw [hrun, ht]
    exact congrArg (fun q => (.next { t with params := q } : Result)) hparams

/-- Settles O22: both handlers are blind to P_EDGE_LOSS. -/
theorem edgeLossEitherLosesOrDelivers : Obligations.EdgeLossEitherLosesOrDelivers := by
  intro i s hi _
  obtain ⟨d, rfl⟩ | rfl := clk_or_stb_of_interrupt hi
  · exact (clockHandler_lossBlind d).lost_or_delivered s.clkArmed s
  · exact strobeHandler_lossBlind.lost_or_delivered s.stbArmed s

/-! ### The pending command at a strobe (42_button_sequencer R112) -/

/-- The state with another command pending. -/
def setPending (p : CmdId) (s : State) : State := { s with pending := p }

theorem guarded_setPending (s : State) :
    (∀ f p, guarded f (setPending p s) = .next (setPending p s)) ∨
    (∀ f p, guarded f (setPending p s) = f (setPending p s)) := by
  cases hen : s.enabled
  · exact .inl fun f p => by simp [guarded, setPending, hen]
  · exact .inr fun f p => by simp [guarded, setPending, hen]

/-- Whether an edge is lost does not depend on the handler or on the pending command. -/
theorem deliver_setPending (armed : Bool) (s : State) : ∃ n,
    (∀ f p, deliver armed f (setPending p s) = .next (setPending p { s with draws := n })) ∨
    (∀ f p, deliver armed f (setPending p s) = f (setPending p { s with draws := n })) := by
  cases armed
  · exact ⟨s.draws, .inl fun _ _ => rfl⟩
  cases hloss : s.params.edgeLoss
  · have hguard f p : deliver true f (setPending p s) = guarded f (setPending p s) := by simp [deliver, setPending, hloss]
    simp only [hguard]
    exact ⟨s.draws, guarded_setPending s⟩
  cases hlost : Config.losesEdge s.draws
  · have hguard f p : deliver true f (setPending p s) = guarded f (setPending p (nextDraw s)) := by
      simp [deliver, setPending, nextDraw, hloss, hlost]
    simp only [hguard]
    exact ⟨s.draws + 1, guarded_setPending (nextDraw s)⟩
  · exact ⟨s.draws + 1, .inl fun f p => by simp [deliver, setPending, nextDraw, hloss, hlost]⟩

theorem framed_setPending (p : CmdId) (s : State) :
    completeFrame (finalized (setPending p s)) = setPending p (completeFrame (finalized s)) := by
  have hfinal : finalized (setPending p s) = setPending p (finalized s) := by
    rw [finalized, finalized, apply_ite (setPending p)]
    rfl
  rw [hfinal, completeFrame, completeFrame, apply_ite (setPending p)]
  rfl

/-- The button tick asks of the pending command only whether there is one. -/
theorem buttonTick_setPending {p q : CmdId} (hp : p ≠ 0) (hq : q ≠ 0) (s : State) :
    ∃ r, buttonTick (setPending q s) = setPending r (buttonTick (setPending p s)) := by
  refine ⟨(buttonTick (setPending q s)).pending, ?_⟩
  simp only [buttonTick_eq, setPending, hp, hq]

/-- Settles O35: the edge is lost in both states or in neither, the framing part leaves the command to the tick, and the tick
asks only whether there is one. -/
theorem stbUsesTheIdentifierOnlyAsPresence : Obligations.StbUsesTheIdentifierOnlyAsPresence := by
  intro s t p q hp hq h
  obtain ⟨n, hlost | hrun⟩ := deliver_setPending s.stbArmed s
  · cases (hlost strobeHandler p).symm.trans h
    exact ⟨q, hlost strobeHandler q⟩
  · have hstb (r : CmdId) : exec .stb (setPending r s) =
        .next (buttonTick (setPending r (completeFrame (finalized { s with draws := n })))) :=
      (hrun strobeHandler r).trans (by rw [strobeHandler_eq, framed_setPending])
    cases (hstb p).symm.trans h
    obtain ⟨r, hr⟩ := buttonTick_setPending hp hq (completeFrame (finalized { s with draws := n }))
    exact ⟨r, (hstb q).trans (congrArg _ hr)⟩

/-! ### Every event answers a next state (00_scope R11, 60_exceptions R136) -/

/-- The events by who issues them (30_encoding R62, 60_exceptions R157). -/
theorem instr_cases (i : Instr) :
    (∃ d, i = .clk d) ∨ i = .stb ∨ i = .poll ∨ (∃ b, i = .en b) ∨ partyOf i = .commandSurface := by
  cases i with
  | clk d => exact .inl ⟨d, rfl⟩
  | stb => exact .inr (.inl rfl)
  | poll => exact .inr (.inr (.inl rfl))
  | en b => exact .inr (.inr (.inr (.inl ⟨b, rfl⟩)))
  | _ => exact .inr (.inr (.inr (.inr rfl)))

theorem exec_stb_next (s : State) : ∃ t, exec .stb s = .next t := by
  obtain ⟨n, hlost⟩ | ⟨-, -, n, hrun⟩ := exec_stb_cases s
  · exact ⟨_, hlost⟩
  · exact ⟨_, hrun⟩

theorem exec_poll_next (s : State) : ∃ t, exec .poll s = .next t := by
  obtain ⟨-, hidle⟩ | ⟨-, -, hconsume⟩ := exec_poll_cases s
  · exact ⟨s, hidle⟩
  · exact ⟨_, hconsume.trans (consumeFrame_eq s)⟩

theorem exec_en_next (b : Bool) (s : State) : ∃ t, exec (.en b) s = .next t := by
  cases b with
  | true => exact ⟨enableGate s, rfl⟩
  | false =>
    cases hen : s.enabled
    · exact ⟨s, exec_disable_of_disabled hen⟩
    · exact ⟨_, exec_disable_of_enabled hen⟩

theorem exec_next (i : Instr) (s : State) : ∃ t, exec i s = .next t := by
  obtain ⟨d, rfl⟩ | rfl | rfl | ⟨b, rfl⟩ | hreq := instr_cases i
  · obtain ⟨acc, bitc, m, bytec, n, heq, -⟩ := exec_clk_frame d s
    exact ⟨_, heq⟩
  · exact exec_stb_next s
  · exact exec_poll_next s
  · exact exec_en_next b s
  · obtain ⟨p, r, o, n, heq, -⟩ := exec_request_frame hreq s
    exact ⟨_, heq⟩

theorem applyWord_next (w : Byte) (s : State) : ∃ t, applyWord w s = .next t := by
  cases hdec : decode w with
  | ok i =>
    obtain ⟨t, ht⟩ := exec_next i s
    exact ⟨t, (applyWord_ok hdec s).trans ht⟩
  | error e => exact ⟨_, applyWord_error hdec s⟩

/-- Settles O10: each event's law answers a next state, and a step waits or applies one word. -/
theorem noEventFaults : Obligations.NoEventFaults := by
  refine ⟨exec_next, fun s => ?_⟩
  obtain ⟨-, hwait⟩ | ⟨w, ws, -, hword⟩ := step_cases s
  · exact ⟨s, hwait⟩
  · exact (applyWord_next w _).imp fun t => hword.trans

/-- Settles O9: the queue has no head to apply. -/
theorem stepWaitsWithoutAnEvent : Obligations.StepWaitsWithoutAnEvent := by
  intro s hempty
  obtain ⟨-, hwait⟩ | ⟨w, ws, hword, -⟩ := step_cases s
  · exact hwait
  · exact nomatch hempty.symm.trans hword

/-! ### The output trace (10_state R37) -/

theorem exec_poll_out_prefix {s t : State} (h : exec .poll s = .next t) : s.out <+: t.out := by
  obtain ⟨-, hidle⟩ | ⟨-, -, hconsume⟩ := exec_poll_cases s
  · cases hidle.symm.trans h
    exact List.prefix_rfl
  · cases (hconsume.trans (consumeFrame_eq s)).symm.trans h
    exact List.prefix_append _ _

theorem exec_out_prefix {i : Instr} {s t : State} (h : exec i s = .next t) : s.out <+: t.out := by
  obtain ⟨d, rfl⟩ | rfl | rfl | ⟨b, rfl⟩ | hreq := instr_cases i
  · obtain ⟨-, -, -, -, -, -, -, hout, -⟩ := clkFrame s t d h
    rw [hout]
  · obtain ⟨-, -, hout, -⟩ := stbFrame s t h
    rw [hout]
  · exact exec_poll_out_prefix h
  · obtain ⟨-, hout, -⟩ := enFrame s t b h
    rw [hout]
  · obtain ⟨p, r, o, n, heq, -, -, hprefix, -⟩ := exec_request_frame hreq s
    cases heq.symm.trans h
    exact hprefix

theorem applyWord_out_prefix {w : Byte} {s t : State} (h : applyWord w s = .next t) : s.out <+: t.out := by
  cases hdec : decode w with
  | ok i => exact exec_out_prefix ((applyWord_ok hdec s).symm.trans h)
  | error e =>
    cases (applyWord_error hdec s).symm.trans h
    exact List.prefix_rfl

/-- Settles O14: only POLL and the requests write the trace, and they append. -/
theorem outputTraceOnlyGrows : Obligations.OutputTraceOnlyGrows := by
  intro s t h
  obtain ⟨-, hwait⟩ | ⟨w, ws, -, hword⟩ := step_cases s
  · cases hwait.symm.trans h
    exact List.prefix_rfl
  · exact applyWord_out_prefix (s := { s with events := ws }) (hword.symm.trans h)

end Sys2Proof.Machine

/-! THEOREMS. Which event writes which state (10_state R14, R15, R20, R27, 42_button_sequencer R113). -/

namespace Sys2Proof.Machine

/-! ### The enabled flag, the armed bits and completeness (10_state R14, R15, R20) -/

/-- What an EN can do: nothing, where the flag has its operand already; enable the block; or disable it. -/
theorem exec_en_cases {b : Bool} {s t : State} (h : exec (.en b) s = .next t) : (s.enabled = b ∧ t = s) ∨
    (b = true ∧ s.enabled = false ∧
      t = { s with btnDrive := false, enabled := true, clkArmed := true, stbArmed := true }) ∨
    (b = false ∧ s.enabled = true ∧ t.enabled = false ∧ t.clkArmed = false ∧ t.stbArmed = false ∧ t.complete = false) := by
  cases b <;> cases hen : s.enabled
  · cases (exec_disable_of_disabled hen).symm.trans h
    exact .inl ⟨rfl, rfl⟩
  · cases (exec_disable_of_enabled hen).symm.trans h
    exact .inr (.inr ⟨rfl, rfl, rfl, rfl, rfl, rfl⟩)
  · cases (exec_enable_of_disabled hen).symm.trans h
    exact .inr (.inl ⟨rfl, rfl, rfl⟩)
  · cases (exec_enable_of_enabled hen).symm.trans h
    exact .inl ⟨rfl, rfl⟩

/-- Settles O54: the frames of the other events hold the flag. -/
theorem onlyEnWritesEnabled : Obligations.OnlyEnWritesEnabled := by
  intro i s t h hne
  obtain ⟨d, rfl⟩ | rfl | rfl | ⟨b, rfl⟩ | hreq := instr_cases i
  · exact absurd (clkFrame s t d h).1 hne
  · exact absurd (stbFrame s t h).1 hne
  · exact absurd (pollFrame s t h).1 hne
  · obtain ⟨-, rfl⟩ | ⟨rfl, -, rfl⟩ | ⟨rfl, -, hoff, -⟩ := exec_en_cases h
    · exact absurd rfl hne
    · exact ⟨true, rfl, rfl⟩
    · exact ⟨false, rfl, hoff⟩
  · exact absurd (requestFrame s t i hreq h).1 hne

/-- An event leaves both armed bits, or attaches both sources, or detaches both. -/
theorem exec_armed_cases {i : Instr} {s t : State} (h : exec i s = .next t) :
    (t.clkArmed = s.clkArmed ∧ t.stbArmed = s.stbArmed) ∨
    ((i = .en true ∨ (i = .poll ∧ s.enabled = true ∧ s.complete = true)) ∧ t.clkArmed = true ∧ t.stbArmed = true) ∨
    (((i = .stb ∧ FillsFrame s) ∨ i = .en false) ∧ t.clkArmed = false ∧ t.stbArmed = false) := by
  obtain ⟨d, rfl⟩ | rfl | rfl | ⟨b, rfl⟩ | hreq := instr_cases i
  · obtain ⟨-, hclk, hstb, -⟩ := clkFrame s t d h
    exact .inl ⟨hclk, hstb⟩
  · obtain ⟨-, -, hclk, hstb, -⟩ | ⟨hfill, -, hoff⟩ := exec_stb_completes_or_keeps h
    · exact .inl ⟨hclk, hstb⟩
    · exact .inr (.inr ⟨.inl ⟨rfl, hfill⟩, hoff⟩)
  · obtain ⟨-, hidle⟩ | ⟨hen, hc, hconsume⟩ := exec_poll_cases s
    · cases hidle.symm.trans h
      exact .inl ⟨rfl, rfl⟩
    · cases (hconsume.trans (consumeFrame_eq s)).symm.trans h
      exact .inr (.inl ⟨.inr ⟨rfl, hen, hc⟩, rfl, rfl⟩)
  · obtain ⟨-, rfl⟩ | ⟨rfl, -, rfl⟩ | ⟨rfl, -, -, hclk, hstb, -⟩ := exec_en_cases h
    · exact .inl ⟨rfl, rfl⟩
    · exact .inr (.inl ⟨.inl rfl, rfl, rfl⟩)
    · exact .inr (.inr ⟨.inr rfl, hclk, hstb⟩)
  · obtain ⟨-, ⟨hclk, hstb, -⟩, -⟩ := requestFrame s t i hreq h
    exact .inl ⟨hclk, hstb⟩

/-- Settles O55: an event that attaches detaches nothing, and the other way round. -/
theorem onlyTheseEventsArmAndDisarm : Obligations.OnlyTheseEventsArmAndDisarm := by
  intro i s t h
  obtain ⟨hclk, hstb⟩ | ⟨hi, hclk, hstb⟩ | ⟨hi, hclk, hstb⟩ := exec_armed_cases h
  · simp [hclk, hstb]
  · exact ⟨fun _ => hi, by simp [hclk, hstb]⟩
  · exact ⟨by simp [hclk, hstb], fun _ => hi⟩

/-- An event leaves the completeness flag, or sets it, or clears it. -/
theorem exec_complete_cases {i : Instr} {s t : State} (h : exec i s = .next t) : t.complete = s.complete ∨
    ((i = .stb ∧ FillsFrame s) ∧ t.complete = true) ∨
    (((i = .poll ∧ s.enabled = true) ∨ i = .en false) ∧ t.complete = false) := by
  obtain ⟨d, rfl⟩ | rfl | rfl | ⟨b, rfl⟩ | hreq := instr_cases i
  · obtain ⟨-, -, -, hc, -⟩ := clkFrame s t d h
    exact .inl hc
  · obtain ⟨hc, -⟩ | ⟨hfill, hset, -⟩ := exec_stb_completes_or_keeps h
    · exact .inl hc
    · exact .inr (.inl ⟨⟨rfl, hfill⟩, hset⟩)
  · obtain ⟨-, hidle⟩ | ⟨hen, -, hconsume⟩ := exec_poll_cases s
    · cases hidle.symm.trans h
      exact .inl rfl
    · cases (hconsume.trans (consumeFrame_eq s)).symm.trans h
      exact .inr (.inr ⟨.inl ⟨rfl, hen⟩, rfl⟩)
  · obtain ⟨-, rfl⟩ | ⟨-, -, rfl⟩ | ⟨rfl, -, -, -, -, hclear⟩ := exec_en_cases h
    · exact .inl rfl
    · exact .inl rfl
    · exact .inr (.inr ⟨.inr rfl, hclear⟩)
  · obtain ⟨-, ⟨-, -, -, -, -, -, hc, -⟩, -⟩ := requestFrame s t i hreq h
    exact .inl hc

/-- Settles O56: an event that sets the flag does not clear it, and the other way round. -/
theorem onlyTheseEventsChangeCompleteness : Obligations.OnlyTheseEventsChangeCompleteness := by
  intro i s t h
  obtain hc | ⟨hi, hset⟩ | ⟨hi, hclear⟩ := exec_complete_cases h
  · simp [hc]
  · exact ⟨fun _ => hi, by simp [hset]⟩
  · exact ⟨by simp [hclear], fun _ => hi⟩

/-! ### The end of a press (42_button_sequencer R113, 70_reset R174) -/

/-- A strobe during a press that neither finds its source detached nor its counter at 10 leaves the press and BTN. -/
theorem exec_stb_keeps_press {s t : State} (h : exec .stb s = .next t) (ha : s.active = true)
    (hle : s.ticks.toNat ≤ 10) : (t.active = s.active ∧ t.btnDrive = s.btnDrive) ∨
    (s.stbArmed = true ∧ s.ticks.toNat = 10) := by
  obtain ⟨n, hlost⟩ | ⟨harm, -, n, hrun⟩ := exec_stb_cases s
  · cases hlost.symm.trans h
    exact .inl ⟨rfl, rfl⟩
  · obtain hlt | hten := hle.lt_or_eq
    · cases hrun.symm.trans h
      obtain ⟨-, hact, hticks, hdrive⟩ := framed_sameButton { s with draws := n }
      rw [buttonTick_count (hact.trans ha) (lt_of_eq_of_lt (congrArg BitVec.toNat hticks) hlt)]
      exact .inl ⟨hact, hdrive⟩
    · exact .inr ⟨harm, hten⟩

/-- Settles O57: every other event leaves the press and BTN as they are. -/
theorem onlyTheseEventsEndAPress : Obligations.OnlyTheseEventsEndAPress := by
  intro i s t h ha hle hen hend
  have hchanged : ¬ (t.active = s.active ∧ t.btnDrive = s.btnDrive) := by
    rintro ⟨hact, hdrive⟩
    simp [hact, hdrive, ha] at hend
  obtain ⟨d, rfl⟩ | rfl | rfl | ⟨b, rfl⟩ | hreq := instr_cases i
  · obtain ⟨-, -, -, -, -, ⟨-, hact, -, hdrive⟩, -⟩ := clkFrame s t d h
    exact absurd ⟨hact, hdrive⟩ hchanged
  · exact .inl ⟨rfl, (exec_stb_keeps_press h ha hle).resolve_left hchanged⟩
  · obtain ⟨-, -, ⟨-, hact, -, hdrive⟩, -⟩ := pollFrame s t h
    exact absurd ⟨hact, hdrive⟩ hchanged
  · obtain ⟨-, rfl⟩ | ⟨-, hoff, -⟩ | ⟨rfl, -⟩ := exec_en_cases h
    · exact absurd ⟨rfl, rfl⟩ hchanged
    · exact nomatch hen.symm.trans hoff
    · exact .inr rfl
  · obtain ⟨-, -, hact, -, hdrive, -⟩ := requestFrame s t i hreq h
    exact absurd ⟨hact, hdrive⟩ hchanged

/-! ### Contexts and parties (10_state R27, 60_exceptions R157) -/

/-- Settles O58: each clause is the frame of the events of its context or party, and no other clause speaks of them. -/
theorem contextsWriteOnlyTheirState : Obligations.ContextsWriteOnlyTheirState := by
  intro i s t h
  obtain ⟨d, rfl⟩ | rfl | rfl | ⟨b, rfl⟩ | hreq := instr_cases i
  · obtain ⟨hen, hclk, hstb, hc, hlogp, hbutton, hmark, hout, -⟩ := clkFrame s t d h
    exact ⟨fun _ => ⟨hen, hmark, hout⟩, fun _ _ => ⟨hclk, hstb, hc, hlogp, hbutton⟩, nofun, nofun, nofun⟩
  · obtain ⟨hen, hmark, hout, -⟩ := stbFrame s t h
    exact ⟨fun _ => ⟨hen, hmark, hout⟩, fun _ hne => absurd rfl hne, nofun, nofun, nofun⟩
  · obtain ⟨hen, hbytec, hbutton, hmark, -⟩ := pollFrame s t h
    exact ⟨nofun, nofun, fun _ => ⟨hen, hbytec, hbutton, hmark⟩, nofun, nofun⟩
  · obtain ⟨hmark, hout, -⟩ := enFrame s t b h
    exact ⟨nofun, nofun, nofun, nofun, fun _ => ⟨hmark, hout⟩⟩
  · obtain ⟨hen, hframing, hact, hticks, hdrive, -, hmark, hnorm, -⟩ := requestFrame s t i hreq h
    have hctx : contextOf i ≠ .interrupt := fun hint => by
      obtain ⟨d, rfl⟩ | rfl := clk_or_stb_of_interrupt hint
      · exact nomatch hreq
      · exact nomatch hreq
    exact ⟨fun hint => absurd hint hctx, fun hint => absurd hint hctx, fun hpoll => (nomatch hreq.symm.trans hpoll),
      fun _ => ⟨hen, hframing, hact, hticks, hdrive, hmark, hnorm⟩, fun hlife => (nomatch hreq.symm.trans hlife)⟩

end Sys2Proof.Machine

/-! THEOREMS. A block whose sources are detached: disabled, it waits for EN 1 (60_exceptions R155, 70_reset R169); enabled with
a complete frame, it holds that frame for its POLL (41_frame_consumer R101, 20_memory R52, 70_reset R173). -/

namespace Sys2Proof.Machine

/-! ### Events that leave such a block waiting -/

/-- An event that is not one of those a block waits for: POLL and EN 0 while enabled, EN 1 while disabled. -/
def Bystander (enabled : Bool) (i : Instr) : Prop :=
  (enabled = true → i ≠ .poll ∧ i ≠ .en false) ∧ (enabled = false → i ≠ .en true)

/-- The enabled flag, the framing state, the press and the normative records are the same, and while disabled the pending
command too. -/
structure Undisturbed (s t : State) : Prop where
  enabled : t.enabled = s.enabled
  framing : SameFraming s t
  active : t.active = s.active
  ticks : t.ticks = s.ticks
  btnDrive : t.btnDrive = s.btnDrive
  pending : s.enabled = false → t.pending = s.pending
  records : normative t.out = normative s.out

theorem Undisturbed.refl (s : State) : Undisturbed s s := ⟨rfl, sameFraming_refl s, rfl, rfl, rfl, fun _ => rfl, rfl⟩

theorem Undisturbed.trans {s t u : State} (hst : Undisturbed s t) (htu : Undisturbed t u) : Undisturbed s u where
  enabled := htu.enabled.trans hst.enabled
  framing := sameFraming_trans hst.framing htu.framing
  active := htu.active.trans hst.active
  ticks := htu.ticks.trans hst.ticks
  btnDrive := htu.btnDrive.trans hst.btnDrive
  pending := fun hoff => (htu.pending (hst.enabled.trans hoff)).trans (hst.pending hoff)
  records := htu.records.trans hst.records

theorem exec_bystander {i : Instr} {s : State} (hclk : s.clkArmed = false) (hstb : s.stbArmed = false)
    (hi : Bystander s.enabled i) : ∃ t, exec i s = .next t ∧ Undisturbed s t := by
  obtain ⟨hon, hoff⟩ := hi
  obtain ⟨d, rfl⟩ | rfl | rfl | ⟨b, rfl⟩ | hreq := instr_cases i
  · exact ⟨s, edgesWhileDetachedAreLost.1 s d hclk, .refl s⟩
  · exact ⟨s, edgesWhileDetachedAreLost.2 s hstb, .refl s⟩
  · have hdisabled : s.enabled = false := Bool.eq_false_iff.mpr fun hen => (hon hen).1 rfl
    exact ⟨s, exec_poll_of_disabled hdisabled, .refl s⟩
  · obtain ⟨t, ht⟩ := exec_en_next b s
    obtain ⟨-, rfl⟩ | ⟨rfl, hdisabled, -⟩ | ⟨rfl, hen, -⟩ := exec_en_cases ht
    · exact ⟨t, ht, .refl t⟩
    · exact absurd rfl (hoff hdisabled)
    · exact absurd rfl (hon hen).2
  · obtain ⟨p, r, o, n, heq, hpending, -, -, hnorm⟩ := exec_request_frame hreq s
    exact ⟨_, heq, rfl, sameFraming_refl s, rfl, rfl, rfl, hpending, hnorm⟩

theorem applyEvents_bystanders {is : List Instr} {s : State} (hclk : s.clkArmed = false) (hstb : s.stbArmed = false)
    (his : ∀ i ∈ is, Bystander s.enabled i) : ∃ t, applyEvents is s = .next t ∧ Undisturbed s t := by
  induction is generalizing s with
  | nil => exact ⟨s, rfl, .refl s⟩
  | cons i is ih =>
    obtain ⟨hi, his⟩ := List.forall_mem_cons.mp his
    obtain ⟨t, hexec, hst⟩ := exec_bystander hclk hstb hi
    obtain ⟨hclkt, hstbt, -⟩ := id hst.framing
    obtain ⟨u, hrun, htu⟩ := ih (hclkt.trans hclk) (hstbt.trans hstb) (hst.enabled.symm ▸ his)
    exact ⟨u, by rw [applyEvents_cons, hexec, andThen_next, hrun], hst.trans htu⟩

/-- Settles O47: while disabled, every event but EN 1 is a bystander. -/
theorem disabledBlockWaitsForEnable : Obligations.DisabledBlockWaitsForEnable := by
  intro s is hoff hclk hstb hno
  have his : ∀ i ∈ is, Bystander s.enabled i := fun i hi =>
    ⟨fun hon => (nomatch hoff.symm.trans hon), fun _ heq => hno (heq ▸ hi)⟩
  obtain ⟨t, hrun, ht⟩ := applyEvents_bystanders hclk hstb his
  exact ⟨t, hrun, ⟨ht.enabled, ht.framing, ht.pending hoff, ht.active, ht.ticks, ht.btnDrive⟩, ht.records⟩

/-! ### The frames handed over (41_frame_consumer R99) -/

theorem framesOut_append (rs qs : List Record) : framesOut (rs ++ qs) = framesOut rs ++ framesOut qs := by
  induction rs with
  | nil => rfl
  | cons r rs ih => cases r <;> simp [framesOut, ih]

/-- Frames are normative records. -/
theorem framesOut_normative (rs : List Record) : framesOut (normative rs) = framesOut rs := by
  induction rs with
  | nil => rfl
  | cons r rs ih => cases r <;> simpa [normative, List.filter_cons, isNormative, framesOut] using ih

theorem Undisturbed.framesOut_eq {s t : State} (h : Undisturbed s t) : framesOut t.out = framesOut s.out := by
  rw [← framesOut_normative t.out, h.records, framesOut_normative]

/-- A POLL that finds a complete frame hands over that frame alone. -/
theorem exec_poll_delivers {s : State} (hen : s.enabled = true) (hc : s.complete = true) :
    ∃ t, exec .poll s = .next t ∧ framesOut t.out = framesOut s.out ++ [frameBytes s.frame] := by
  refine ⟨_, (exec_poll_complete hen hc).trans (consumeFrame_eq s), ?_⟩
  rw [framesOut_append, framesOut]
  cases s.logp <;> rfl

/-- Under the invariants a complete frame finds the block enabled and both sources detached (R29, R33). -/
theorem Inv.enabled_and_detached_of_complete {s : State} (h : Inv s) (hc : s.complete = true) :
    s.enabled = true ∧ s.clkArmed = false ∧ s.stbArmed = false := by
  have hclk : s.clkArmed = false := Bool.eq_false_iff.mpr fun harm => nomatch hc.symm.trans (h.not_complete_of_armed harm)
  refine ⟨Bool.eq_true_of_not_eq_false fun hoff => ?_, hclk, h.arming.1.symm.trans hclk⟩
  obtain ⟨⟨-, -, -, -, -, -, hnone, -⟩, -⟩ := h.disabled hoff
  exact nomatch hc.symm.trans hnone

/-- Settles O41: the events before the POLL are bystanders, so the POLL finds the frame as it was completed. -/
theorem completedFrameIsDeliveredUntouched : Obligations.CompletedFrameIsDeliveredUntouched := by
  intro s is bytes hinv hc his hbytes
  obtain ⟨hen, hclk, hstb⟩ := hinv.enabled_and_detached_of_complete hc
  obtain ⟨t, hrun, ht⟩ := applyEvents_bystanders hclk hstb fun i hi =>
    ⟨fun _ => his i hi, fun hoff => nomatch hen.symm.trans hoff⟩
  obtain ⟨-, -, -, -, hframe, -, hct, -⟩ := ht.framing
  obtain ⟨u, hpoll, hu⟩ := exec_poll_delivers (ht.enabled.trans hen) (hct.trans hc)
  cases (readFrame_eq s).symm.trans hbytes
  exact ⟨t, u, hrun, hpoll, ht.framesOut_eq, by rw [hu, ht.framesOut_eq, hframe], ht.active, ht.ticks, ht.btnDrive⟩

end Sys2Proof.Machine
